-- ==== Sys2Proof/Word.lean ====
section
/-! DEFINITION. The word types of the CORE (R9, R11, R21): names for bit vectors, no arithmetic of their own. -/

namespace Sys2Proof

/-- A byte: 8 bits (R11). -/
abbrev Byte := BitVec 8

/-- A word: 32 bits, the HOST's data width and the width of a command (R9, R62, R90). -/
abbrev Word := BitVec 32

/-- The content of a scalar register or of one coordinate field: 256 bits (R21, R35). -/
abbrev Scalar := BitVec 256

/-- A byte string (R11). Text is a byte string of ASCII codes. -/
abbrev Bytes := List Byte

/-- A byte address of the HOST's window: 12 bits (R60, R62). -/
abbrev WindowAddress := BitVec 12

/-- A register index field: two bits used directly as an index, every value valid (R91, R93). -/
abbrev RegIndex := Fin 4

end Sys2Proof
end

