-- ==== Sys2Proof/Config.lean ====
section
/-! DEFINITION. What an implementation fixes (the buffer sizes, R7) and the free values the spec leaves open
(R45, R66). A free value has no body: nothing can be proved of it but what holds of every value. -/

namespace Sys2Proof.Config

/-- The two byte buffers (R41, R42). -/
inductive Buffer where
  | ibuf
  | obuf
deriving DecidableEq, Repr

/-- The named parameters `IBUFSZ` and `OBUFSZ` (R7, D10). -/
structure BufferSizes where
  ibuf : Nat
  obuf : Nat
deriving DecidableEq, Repr

/-- The defaults of R7. -/
def BufferSizes.default : BufferSizes := { ibuf := 128, obuf := 128 }

/-- The constraint of R7: each size is at least 65 and at most 256. -/
abbrev BufferSizes.Legal (z : BufferSizes) : Prop :=
  65 ≤ z.ibuf ∧ z.ibuf ≤ 256 ∧ 65 ≤ z.obuf ∧ z.obuf ≤ 256

/-- FREE VALUE (R45, U3, log 6): the byte that a buffer holds at an index after reset number `epoch`, as long
as nothing has written that byte since. -/
opaque bufferAtReset (b : Buffer) (epoch index : Nat) : Byte

/-- FREE VALUE (R66, U1, log 7): the word that the `draw`-th read made while `BUSY = 1` returns. -/
opaque busyRead (draw : Nat) : Word

end Sys2Proof.Config
end

