-- ==== Sys2Proof/Syntax.lean ====
section
/-! DEFINITION. The syntax: the 19 commands (R96), the HOST's two moves (R62) and the events that one execution
orders (R74, R260). -/

namespace Sys2Proof

/-- The commands of the PCT command set, version 1: one constructor per row of R96, operands in the order
`rd`, `ra`, `rb`, `c`, `t`, each one only where the row's format has the field (R92). -/
inductive Instr where
  | modinv (rd ra : RegIndex)
  | padd (rd ra rb : RegIndex)
  | pdbl (rd ra : RegIndex)
  | smul (rd ra rb : RegIndex)
  | oncurve (ra : RegIndex)
  | keyvalid (ra : RegIndex)
  | pldg (rd : RegIndex)
  | haInit
  | haUpdate
  | haDigest
  | hbHash
  | b58enc
  | b58dec
  | b58cenc
  | b58cdec
  | derivepub (rd ra : RegIndex) (c : Bool)
  | deriveaddr
  | wifenc (ra : RegIndex) (c t : Bool)
  | wifdec (rd : RegIndex)
deriving DecidableEq, Repr

/-- How many bits a bus transaction moves. R63: only 32 is part of the interface. -/
inductive AccessWidth where
  | bits8
  | bits16
  | bits32
deriving DecidableEq, Repr

/-- The HOST's moves (R62), with the widths that R63 has a model refuse by name. -/
inductive HostMove where
  | write (width : AccessWidth) (a : WindowAddress) (w : Word)
  | read (width : AccessWidth) (a : WindowAddress)
deriving DecidableEq, Repr

/-- What the next step of the one total order of R74 is: a HOST transaction, the CORE step (R72), or the reset
event (R260). -/
inductive Event where
  | host (m : HostMove)
  | core
  | reset
deriving DecidableEq, Repr

/-- `HostWrite(a, w)` of R62. -/
def Event.hostWrite (a : WindowAddress) (w : Word) : Event := .host (.write .bits32 a w)

/-- `HostRead(a)` of R62. -/
def Event.hostRead (a : WindowAddress) : Event := .host (.read .bits32 a)

end Sys2Proof
end

