-- ==== Sys2Proof/WellFormed.lean ====
section
/-! DEFINITION. What the interface admits. A command needs no check: its register indices are two-bit values and
every one is valid (R93), which the type says. A HOST move has two: it moves 32 bits, and its address is a
multiple of 4 (R63). -/

namespace Sys2Proof

/-- The width a move asks for. -/
def HostMove.width : HostMove → AccessWidth
  | .write width _ _ => width
  | .read width _ => width

/-- The window address a move names. -/
def HostMove.address : HostMove → WindowAddress
  | .write _ a _ => a
  | .read _ a => a

/-- R63: a legal transaction moves 32 bits. -/
def HostMove.fullWidth (m : HostMove) : Bool := m.width == .bits32

/-- R63: a legal transaction has `a mod 4 = 0`. -/
def HostMove.aligned (m : HostMove) : Bool := m.address.toNat % 4 == 0

/-- R63: the transactions that are part of the interface. -/
def HostMove.wellFormed (m : HostMove) : Bool := m.fullWidth && m.aligned

/-- An event is well formed when the HOST move it carries is. -/
def Event.wellFormed : Event → Bool
  | .host m => m.wellFormed
  | .core => true
  | .reset => true

end Sys2Proof
end

