-- ==== Sys2Proof/Decode.lean ====
section
/-! DEFINITION. The command word (30_encoding): fields, formats, the opcode map, the total decoder and the
encoder. -/

namespace Sys2Proof

/-- The formats of R92. -/
inductive Format where
  | z
  | d
  | a
  | da
  | dab
  | dac
  | act
deriving DecidableEq, Repr

/-- The bits that must match exactly: the opcode bits and all must-be-zero bits (R92). -/
def Format.mask : Format → Word
  | .z => 0xFFFFFFFF
  | .d => 0xFFFFFCFF
  | .a => 0xFFFFF3FF
  | .da => 0xFFFFF0FF
  | .dab => 0xFFFFC0FF
  | .dac => 0xFFFEF0FF
  | .act => 0xFFFCF3FF

/-- The operand fields of a command word (R91). -/
structure Fields where
  rd : RegIndex
  ra : RegIndex
  rb : RegIndex
  c : Bool
  t : Bool
deriving DecidableEq, Repr

/-- The two-bit field whose low bit is bit `lo` (R91, R93). -/
def registerField (w : Word) (lo : Nat) : RegIndex := (w.extractLsb' lo 2).toFin

/-- The operand fields of `w` (R91): `rd = w[9:8]`, `ra = w[11:10]`, `rb = w[13:12]`, `c = w[16]`, `t = w[17]`. -/
def fieldsOf (w : Word) : Fields :=
  { rd := registerField w 8
    ra := registerField w 10
    rb := registerField w 12
    c := w.getLsbD 16
    t := w.getLsbD 17 }

/-- One row of the opcode map (R96): the opcode, which is also the row's match value, the format, and the
command that the fields make. -/
structure OpcodeRow where
  op : Word
  format : Format
  command : Fields → Instr

/-- The opcode map of R96, in its order. -/
def opcodeMap : List OpcodeRow :=
  [ ⟨0x01, .da, fun f => .modinv f.rd f.ra⟩,
    ⟨0x02, .dab, fun f => .padd f.rd f.ra f.rb⟩,
    ⟨0x03, .da, fun f => .pdbl f.rd f.ra⟩,
    ⟨0x04, .dab, fun f => .smul f.rd f.ra f.rb⟩,
    ⟨0x05, .a, fun f => .oncurve f.ra⟩,
    ⟨0x06, .a, fun f => .keyvalid f.ra⟩,
    ⟨0x07, .d, fun f => .pldg f.rd⟩,
    ⟨0x10, .z, fun _ => .haInit⟩,
    ⟨0x11, .z, fun _ => .haUpdate⟩,
    ⟨0x12, .z, fun _ => .haDigest⟩,
    ⟨0x18, .z, fun _ => .hbHash⟩,
    ⟨0x20, .z, fun _ => .b58enc⟩,
    ⟨0x21, .z, fun _ => .b58dec⟩,
    ⟨0x22, .z, fun _ => .b58cenc⟩,
    ⟨0x23, .z, fun _ => .b58cdec⟩,
    ⟨0x30, .dac, fun f => .derivepub f.rd f.ra f.c⟩,
    ⟨0x31, .z, fun _ => .deriveaddr⟩,
    ⟨0x32, .act, fun f => .wifenc f.ra f.c f.t⟩,
    ⟨0x33, .d, fun f => .wifdec f.rd⟩ ]

/-- `(w AND mask) = op`: the word fits the row (R97). -/
def OpcodeRow.fits (r : OpcodeRow) (w : Word) : Bool := (w &&& r.format.mask) == r.op

/-- Why a word decodes to no command (R98): its opcode is not in the map, or a bit its format requires to be 0
is 1. -/
inductive DecodeError where
  | unlistedOpcode (op : Byte)
  | nonzeroReservedBits (op : Byte)
deriving DecidableEq, Repr

/-- The opcode field `w[7:0]` (R91). -/
def opcodeField (w : Word) : Byte := w.extractLsb' 0 8

/-- The decoder (R97), total on all words: the row whose mask and opcode the word satisfies, else an illegal word,
by name (R98). -/
def decode (w : Word) : Except DecodeError Instr :=
  match opcodeMap.find? (fun r => r.fits w) with
  | some r => .ok (r.command (fieldsOf w))
  | none =>
    if opcodeMap.any (fun r => r.op == (opcodeField w).zeroExtend 32) then
      .error (.nonzeroReservedBits (opcodeField w))
    else
      .error (.unlistedOpcode (opcodeField w))

/-- The word of an opcode and its fields (R96):
`op + 256*rd + 1024*ra + 4096*rb + 65536*c + 131072*t`. -/
def commandWord (op : Nat) (f : Fields) : Word :=
  BitVec.ofNat 32
    (op + 256 * f.rd.val + 1024 * f.ra.val + 4096 * f.rb.val + 65536 * f.c.toNat + 131072 * f.t.toNat)

/-- The opcode of a command (R96). -/
def opcodeOf : Instr → Nat
  | .modinv _ _ => 0x01
  | .padd _ _ _ => 0x02
  | .pdbl _ _ => 0x03
  | .smul _ _ _ => 0x04
  | .oncurve _ => 0x05
  | .keyvalid _ => 0x06
  | .pldg _ => 0x07
  | .haInit => 0x10
  | .haUpdate => 0x11
  | .haDigest => 0x12
  | .hbHash => 0x18
  | .b58enc => 0x20
  | .b58dec => 0x21
  | .b58cenc => 0x22
  | .b58cdec => 0x23
  | .derivepub _ _ _ => 0x30
  | .deriveaddr => 0x31
  | .wifenc _ _ _ => 0x32
  | .wifdec _ => 0x33

/-- The fields of a command, those its format does not use being 0 (R91, R92). -/
def operandsOf : Instr → Fields
  | .modinv rd ra => ⟨rd, ra, 0, false, false⟩
  | .padd rd ra rb => ⟨rd, ra, rb, false, false⟩
  | .pdbl rd ra => ⟨rd, ra, 0, false, false⟩
  | .smul rd ra rb => ⟨rd, ra, rb, false, false⟩
  | .oncurve ra => ⟨0, ra, 0, false, false⟩
  | .keyvalid ra => ⟨0, ra, 0, false, false⟩
  | .pldg rd => ⟨rd, 0, 0, false, false⟩
  | .haInit => ⟨0, 0, 0, false, false⟩
  | .haUpdate => ⟨0, 0, 0, false, false⟩
  | .haDigest => ⟨0, 0, 0, false, false⟩
  | .hbHash => ⟨0, 0, 0, false, false⟩
  | .b58enc => ⟨0, 0, 0, false, false⟩
  | .b58dec => ⟨0, 0, 0, false, false⟩
  | .b58cenc => ⟨0, 0, 0, false, false⟩
  | .b58cdec => ⟨0, 0, 0, false, false⟩
  | .derivepub rd ra c => ⟨rd, ra, 0, c, false⟩
  | .deriveaddr => ⟨0, 0, 0, false, false⟩
  | .wifenc ra c t => ⟨0, ra, 0, c, t⟩
  | .wifdec rd => ⟨rd, 0, 0, false, false⟩

/-- The encoder: the word of a command (R96). -/
def encode (i : Instr) : Word := commandWord (opcodeOf i) (operandsOf i)

/-- The format of a command (R96). -/
def formatOf : Instr → Format
  | .modinv _ _ => .da
  | .padd _ _ _ => .dab
  | .pdbl _ _ => .da
  | .smul _ _ _ => .dab
  | .oncurve _ => .a
  | .keyvalid _ => .a
  | .pldg _ => .d
  | .haInit => .z
  | .haUpdate => .z
  | .haDigest => .z
  | .hbHash => .z
  | .b58enc => .z
  | .b58dec => .z
  | .b58cenc => .z
  | .b58cdec => .z
  | .derivepub _ _ _ => .dac
  | .deriveaddr => .z
  | .wifenc _ _ _ => .act
  | .wifdec _ => .d

/-- The command word whose low `nbits` bits are those of `w` and whose other bits are 0. A command is written to
`CMD` as one 32-bit word (R90), so there is no byte order to choose. -/
def tableWord (nbits w : Nat) : Word := BitVec.ofNat 32 (w % 2 ^ nbits)

/-- The command that the decoder reads from a row's word, `none` where it refuses. A word with a bit above bit 31
is no command (R90). -/
def decodeTableWord (nbits w : Nat) : Option Instr :=
  if w % 2 ^ nbits < 2 ^ 32 then
    match decode (tableWord nbits w) with
    | .ok i => some i
    | .error _ => none
  else
    none

end Sys2Proof
end

