-- ==== Sys2Proof/Machine/State.lean ====
section
/-! DEFINITION. The state of the CORE (10_state, R20), as plain data, the reasons a step can stop, and the state
after reset (R45). The fields below the line `the model's own` are not the spec's. -/

namespace Sys2Proof.Machine

/-- A byte memory: the listed (index, byte) pairs, indices strictly rising. An unlisted index has no value of its
own: what it reads as is the free byte of `State.bufferByte` (log 6). -/
abbrev Memory := List Host.Cell

/-- A point register (R35): the tag bit `inf` and the two coordinate fields. -/
structure PointRegister where
  inf : Bool
  x : Scalar
  y : Scalar
deriving DecidableEq, Repr

/-- The three fields of `FLAGS` (R23). -/
structure Flags where
  t : Bool
  c : Bool
  ver : Byte
deriving DecidableEq, Repr

/-- The state of the Hash-A accumulator (R37), visible as `STATUS.HST`. -/
inductive HashStage where
  | idle
  | active
  | final
deriving DecidableEq, Repr

/-- Eight chaining words of Hash-A (R37, R150). -/
structure HashAWords where
  h0 : Word
  h1 : Word
  h2 : Word
  h3 : Word
  h4 : Word
  h5 : Word
  h6 : Word
  h7 : Word
deriving DecidableEq, Repr

/-- The Hash-A accumulator `HA` (R37). `HA.blen` is the length of `buf`, stored once (log 15). -/
structure HashAccumulator where
  st : HashStage
  h : HashAWords
  buf : Bytes
  bits : BitVec 64
deriving DecidableEq, Repr

/-- The whole state. The first part is the list of R20 with the parameters of R7. -/
structure State where
  /-- `IBUFSZ` and `OBUFSZ` (R7): parameters, written by no step. -/
  sizes : Config.BufferSizes
  /-- The scalar registers `S[0..3]` (R21). -/
  S : Vector Scalar 4
  /-- The point registers `PT[0..3]` (R35). -/
  PT : Vector PointRegister 4
  /-- `FLAGS` (R23). -/
  flags : Flags
  /-- `STATUS.BUSY` (R25). -/
  busy : Bool
  /-- `STATUS.DONE` (R25). -/
  done : Bool
  /-- `STATUS.ERR` (R25). -/
  err : Bool
  /-- `ERRCODE[7:0]` (R26). -/
  errcode : Byte
  /-- `ESTICKY` (R27). -/
  esticky : Word
  /-- `ILEN[8:0]` (R28). -/
  ilen : BitVec 9
  /-- `OLEN[8:0]` (R29). -/
  olen : BitVec 9
  /-- The Hash-A accumulator (R37). -/
  ha : HashAccumulator
  /-- The command latch `CMDL` (R39). -/
  cmdl : Word
  /-- The input buffer `IBUF` (R41). -/
  ibuf : Memory
  /-- The output buffer `OBUF` (R42). -/
  obuf : Memory
  -- the model's own
  /-- The steps still to come, oldest first (R74, log 1). -/
  agenda : List Event
  /-- The word the last `HostRead` returned (R62, log 8). -/
  rdata : Word
  /-- The number of resets so far: selects the free bytes of the buffers (R45, R260, log 6). -/
  epoch : Nat
  /-- The number of busy reads so far: selects the free word of the next one (R66, log 7). -/
  draws : Nat
deriving DecidableEq, Repr

/-- The reasons a step stops with a machine fault: none. The spec models no behaviour of the CORE as stuck
(93_implementation_defined, after U20): a command that fails takes the abort of R236, which is a next state
(log 19). -/
inductive Fault where
deriving DecidableEq, Repr

/-- The reasons the model gives no meaning. -/
inductive Refusal where
  /-- Raised by an arm of `exec` for a command that has no meaning yet. No arm raises it. Safe. -/
  | notModelled (mnemonic : String)
  /-- Raised by a HOST transaction of 8 or 16 bits, which R63 has a model refuse by name (U7, log 11). Safe. -/
  | narrowTransaction
  /-- Raised by a HOST transaction at an address that is not a multiple of 4, which R63 has a model refuse by
  name (U7, log 11). Safe. -/
  | misalignedTransaction
deriving DecidableEq, Repr

/-- A point register that holds `INF` as reset and as the CORE itself writes it (R35, R45). -/
def PointRegister.infinity : PointRegister := { inf := true, x := 0, y := 0 }

/-- The accumulator after reset: `IDLE` (R45). The other fields are unspecified there; DESIGN CHOICE zero and
empty (log 5). -/
def HashAccumulator.atReset : HashAccumulator :=
  { st := .idle, h := ⟨0, 0, 0, 0, 0, 0, 0, 0⟩, buf := [], bits := 0 }

/-- The state after reset (R45, R260). `cmdl` is unspecified there: DESIGN CHOICE zero (log 5). The buffers list
nothing: every byte is free (log 6). -/
def State.reset : State :=
  { sizes := Config.BufferSizes.default
    S := Vector.replicate 4 0
    PT := Vector.replicate 4 PointRegister.infinity
    flags := { t := false, c := false, ver := 0 }
    busy := false
    done := false
    err := false
    errcode := 0
    esticky := 0
    ilen := 0
    olen := 0
    ha := HashAccumulator.atReset
    cmdl := 0
    ibuf := []
    obuf := []
    agenda := []
    rdata := 0
    epoch := 0
    draws := 0 }

end Sys2Proof.Machine
end

