-- ==== Sys2Proof/Machine/Constants.lean ====
section
/-! DEFINITION. The curve parameters (R30), hardwired and readable by the HOST (R31). -/

namespace Sys2Proof.Machine

/-- The field prime `p` (R30). -/
def fieldPrime : Nat := 0xFFFFFFFFFFFFFFFFFFFFFFFFFFFFFFFFFFFFFFFFFFFFFFFFFFFFFFFEFFFFFC2F

/-- The order `n` (R30). -/
def groupOrder : Nat := 0xFFFFFFFFFFFFFFFFFFFFFFFFFFFFFFFEBAAEDCE6AF48A03BBFD25E8CD0364141

/-- `Gx` (R30). -/
def generatorX : Nat := 0x79BE667EF9DCBBAC55A06295CE870B07029BFCDB2DCE28D959F2815B16F81798

/-- `Gy` (R30). -/
def generatorY : Nat := 0x483ADA7726A3C4655DA4FBFC0E1108A8FD17B448A68554199C47D08FFB10D4B8

/-- The coefficient `A` (R30). -/
def coefficientA : Nat := 0

/-- The coefficient `B` (R30). -/
def coefficientB : Nat := 7

/-- The six constants of the window, in the order of their addresses (R31): `p`, `n`, `Gx`, `Gy`, `A`, `B`. -/
def curveConstant : Fin 6 → Scalar
  | 0 => BitVec.ofNat 256 fieldPrime
  | 1 => BitVec.ofNat 256 groupOrder
  | 2 => BitVec.ofNat 256 generatorX
  | 3 => BitVec.ofNat 256 generatorY
  | 4 => BitVec.ofNat 256 coefficientA
  | 5 => BitVec.ofNat 256 coefficientB

end Sys2Proof.Machine
end

