-- ==== Sys2Proof/Machine/Bytes.lean ====
section
/-! DEFINITION. Integers and byte strings (R11): big-endian and little-endian forms, the shortest big-endian form,
and the cut of a byte string into 64-byte blocks (R150, R170). -/

namespace Sys2Proof.Machine

/-- `be(v, k)`: the `k`-byte big-endian string of `v` modulo `2^(8k)` (R11). -/
def be (v : Nat) : Nat → Bytes
  | 0 => []
  | k + 1 => BitVec.ofNat 8 (v / 2 ^ (8 * k)) :: be v k

/-- `le(v, k)`: the `k`-byte little-endian string of `v` modulo `2^(8k)` (R11). -/
def le (v : Nat) : Nat → Bytes
  | 0 => []
  | k + 1 => BitVec.ofNat 8 v :: le (v / 256) k

/-- `int_be(b)`: the integer of a big-endian string (R11). -/
def intBe (b : Bytes) : Nat := b.foldl (fun acc byte => acc * 256 + byte.toNat) 0

/-- `int_le(b)`: the integer of a little-endian string (R11). -/
def intLe (b : Bytes) : Nat := b.foldr (fun byte acc => byte.toNat + 256 * acc) 0

/-- The least `k` with `v < 2^(8k)` (R11, `minbe`). -/
def byteLength (v : Nat) : Nat := if v = 0 then 0 else Nat.log2 v / 8 + 1

/-- `minbe(v)`: the shortest big-endian string of `v`; `minbe(0)` is empty (R11). -/
def minbe (v : Nat) : Bytes := be v (byteLength v)

/-- The first `n` blocks of 64 bytes. -/
def takeBlocks : Nat → Bytes → List Bytes
  | 0, _ => []
  | n + 1, b => b.take 64 :: takeBlocks n (b.drop 64)

/-- The full 64-byte blocks of a string, in order (R156). -/
def fullBlocks (b : Bytes) : List Bytes := takeBlocks (b.length / 64) b

/-- What is left of a string after its full blocks: fewer than 64 bytes (R156, R158). -/
def remainder (b : Bytes) : Bytes := b.drop (64 * (b.length / 64))

/-- The number of zero bytes of the padding: `(55 - len) mod 64` (R155, R177). -/
def paddingZeros (len : Nat) : Nat := (119 - len % 64) % 64

/-- The string cut into `n` words of four bytes, each read by `int`. -/
def wordsOf (int : Bytes → Nat) : Nat → Bytes → List Word
  | 0, _ => []
  | n + 1, b => BitVec.ofNat 32 (int (b.take 4)) :: wordsOf int n (b.drop 4)

end Sys2Proof.Machine
end

