-- ==== Sys2Proof/Machine/Errors.lean ====
section
/-! DEFINITION. The error names and codes of a failing command (R231). -/

namespace Sys2Proof.Machine

/-- The errors a command can raise (R231). -/
inductive CommandError where
  | invalidPrivateKey
  | pointNotOnCurve
  | divisionByZero
  | invalidAlphabetCharacter
  | invalidChecksum
  | invalidKeyEncoding
  | illegalCommand
  | operandRange
  | bufferOverflow
  | hashSequence
deriving DecidableEq, Repr

/-- The code of an error: the value of `ERRCODE[7:0]` and the index of its bit in `ESTICKY` (R231). -/
def CommandError.code : CommandError → Nat
  | .invalidPrivateKey => 1
  | .pointNotOnCurve => 2
  | .divisionByZero => 3
  | .invalidAlphabetCharacter => 4
  | .invalidChecksum => 5
  | .invalidKeyEncoding => 6
  | .illegalCommand => 7
  | .operandRange => 8
  | .bufferOverflow => 9
  | .hashSequence => 10

end Sys2Proof.Machine
end

