-- ==== Sys2Proof/Machine/Flags.lean ====
section
/-! DEFINITION. The words the HOST reads from `FLAGS`, `STATUS`, `ERRCODE`, `ESTICKY`, `ILEN` and `OLEN`, and the
flag writes of the commands (R23 to R29). -/

namespace Sys2Proof.Machine

/-- The `FLAGS` word (R23): bit 0 `T`, bit 1 `C`, bits 15:8 `VER`, all other bits 0. -/
def Flags.word (f : Flags) : Word :=
  BitVec.ofNat 32 (f.t.toNat + 2 * f.c.toNat + 256 * f.ver.toNat)

/-- The value of `STATUS.HST` (R25). -/
def HashStage.code : HashStage → Nat
  | .idle => 0
  | .active => 1
  | .final => 2

/-- The `STATUS` word (R25): bit 0 `BUSY`, bit 1 `DONE`, bit 2 `ERR`, bits 5:4 `HST`, all other bits 0. -/
def State.statusWord (s : State) : Word :=
  BitVec.ofNat 32 (s.busy.toNat + 2 * s.done.toNat + 4 * s.err.toNat + 16 * s.ha.st.code)

/-- The `ERRCODE` word (R26): bits 31:8 read 0. -/
def State.errcodeWord (s : State) : Word := s.errcode.zeroExtend 32

/-- The bits of `ESTICKY` that exist: 1 to 10 (R27). -/
def estickyBits : Word := 0x7FE

/-- The `ESTICKY` word (R27): bit 0 and bits 31:11 read 0. -/
def State.estickyWord (s : State) : Word := s.esticky &&& estickyBits

/-- The bit of `ESTICKY` that an error sets (R27, R231). -/
def CommandError.stickyBit (e : CommandError) : Word := BitVec.ofNat 32 (2 ^ e.code)

/-- The `ILEN` word (R28): bits 31:9 read 0. -/
def State.ilenWord (s : State) : Word := s.ilen.zeroExtend 32

/-- The `OLEN` word (R29): bits 31:9 read 0. -/
def State.olenWord (s : State) : Word := s.olen.zeroExtend 32

/-- `FLAGS.T <- v` (R23). -/
def State.setFlagT (s : State) (v : Bool) : State := { s with flags := { s.flags with t := v } }

/-- `FLAGS.C <- c; FLAGS.VER <- ver` (R23, R215). -/
def State.setFlagsWif (s : State) (c : Bool) (ver : Byte) : State :=
  { s with flags := { s.flags with c := c, ver := ver } }

end Sys2Proof.Machine
end

