-- ==== Sys2Proof/Machine/Ops.lean ====
section
/-! DEFINITION. The named operations over buffers and registers, the launch of a command (R70), its two ends (R72),
the abort among them, which is the spec's analogue of taking an exception (R236), and the reset event (R260). -/

namespace Sys2Proof.Machine

/-! Memory: a canonical list of cells. -/

/-- The canonical form: indices strictly rising. An unlisted index has no value of its own, so no entry equals
what an unlisted index reads as. -/
abbrev Memory.wf (m : Memory) : Prop := (m.map Prod.fst).Pairwise (· < ·)

/-- Every listed index is below `size`: the buffer has no byte at or beyond it (R64). -/
abbrev Memory.within (m : Memory) (size : Nat) : Prop := ∀ cell ∈ m, cell.1 < size

/-- The byte listed at index `k`, if there is one. -/
def Memory.lookup : Memory → Nat → Option Byte
  | [], _ => none
  | (a, v) :: m, k => if a = k then some v else Memory.lookup m k

/-- The memory with byte `v` at index `k`. -/
def Memory.write : Memory → Nat → Byte → Memory
  | [], k, v => [(k, v)]
  | (a, u) :: m, k, v =>
    if k < a then (k, v) :: (a, u) :: m
    else if k = a then (k, v) :: m
    else (a, u) :: Memory.write m k v

/-- The memory with the bytes of a string at index `k` and up (R13, `MemWrite`). -/
def Memory.writeBytes : Memory → Nat → Bytes → Memory
  | m, _, [] => m
  | m, k, v :: rest => Memory.writeBytes (Memory.write m k v) (k + 1) rest

/-! Buffers. -/

/-- Byte `k` of a buffer: the byte last written there, or the free byte the buffer holds since the last reset
(R45, log 6). -/
def State.bufferByte (s : State) : Config.Buffer → Nat → Byte
  | .ibuf, k => (s.ibuf.lookup k).getD (Config.bufferAtReset .ibuf s.epoch k)
  | .obuf, k => (s.obuf.lookup k).getD (Config.bufferAtReset .obuf s.epoch k)

/-- The size of a buffer (R7). -/
def State.bufferSize (s : State) : Config.Buffer → Nat
  | .ibuf => s.sizes.ibuf
  | .obuf => s.sizes.obuf

/-- `MemRead(buffer, 0, n)` (R13). -/
def State.memRead (s : State) (b : Config.Buffer) (n : Nat) : Bytes :=
  (List.range n).map (fun k => s.bufferByte b k)

/-! Registers. -/

/-- `S[i]` (R21). -/
def State.scalar (s : State) (i : RegIndex) : Scalar := s.S[i]

/-- `S[i] <- v` (R13). -/
def State.setScalar (s : State) (i : RegIndex) (v : Scalar) : State := { s with S := s.S.set i v }

/-- The fields of `PT[i]` (R35). -/
def State.pointRegister (s : State) (i : RegIndex) : PointRegister := s.PT[i]

/-- Write the fields of `PT[i]` (R35). -/
def State.setPointRegister (s : State) (i : RegIndex) (v : PointRegister) : State :=
  { s with PT := s.PT.set i v }

/-- Write the Hash-A accumulator (R157 to R159). -/
def State.setAccumulator (s : State) (ha : HashAccumulator) : State := { s with ha := ha }

/-- `MemWrite(OBUF, 0, len(b), b); OLEN <- len(b)`: the writes of `out(b)` (R13, R42). -/
def State.putOutput (s : State) (b : Bytes) : State :=
  { s with obuf := s.obuf.writeBytes 0 b, olen := BitVec.ofNat 9 b.length }

/-! Launch, completion, abort, reset. -/

/-- Launch of the word `w` (R70). -/
def State.launch (s : State) (w : Word) : State :=
  { s with cmdl := w, busy := true, done := false, err := false, errcode := 0 }

/-- The end of a command with outcome `Ok` (R72). -/
def State.completeOk (s : State) : State := { s with busy := false, done := true }

/-- The end of a command with outcome `Fail(e)` (R236): the spec's analogue of taking an exception. It starts
from the state the command began in, so that no other write of the command takes effect. -/
def State.abort (s : State) (e : CommandError) : State :=
  { s with
    busy := false
    done := false
    err := true
    errcode := BitVec.ofNat 8 e.code
    esticky := s.esticky ||| e.stickyBit }

/-- The end of a command (R14, R72): with outcome `Ok` all its writes take effect together; with `Fail(e)` none
does. -/
def State.finish (s : State) : Except CommandError State → Host.Outcome State Fault Refusal
  | .ok t => .next t.completeOk
  | .error e => .next (s.abort e)

/-- The reset event (R260): the reset state of R45, at any time. The parameters and what is outside the CORE
(the events to come, the last word read, the count of busy reads) stay; the buffers hold new free bytes. -/
def State.applyReset (s : State) : State :=
  { State.reset with
    sizes := s.sizes
    agenda := s.agenda
    rdata := s.rdata
    epoch := s.epoch + 1
    draws := s.draws }

/-- What decoding the latched word gives (R72, R97). -/
def State.fetchCommand (s : State) : Except DecodeError Instr := decode s.cmdl

/-- The next event and the state in which it happens (R74): the head of the agenda; with an empty agenda, the
CORE's turn (R73, log 2). -/
def State.nextEvent (s : State) : Event × State :=
  match s.agenda with
  | [] => (.core, s)
  | e :: rest => (e, { s with agenda := rest })

end Sys2Proof.Machine
end

