-- ==== Sys2Proof/Machine/Operands.lean ====
section
/-! DEFINITION. The operands of the commands: point values and how a register holds one (R12, R35, R120), the input
buffer (R13, R233) and the output buffer (R13, R234). -/

namespace Sys2Proof.Machine

/-- A point value (R12): the tag `INF`, or a pair of field elements. -/
inductive Point where
  | inf
  | aff (x y : Nat)
deriving DecidableEq, Repr

/-- The point value a register holds, as a command reads it (R120). -/
def PointRegister.value (r : PointRegister) : Except CommandError Point :=
  if r.inf then .ok .inf
  else if r.x.toNat ≥ fieldPrime ∨ r.y.toNat ≥ fieldPrime then .error .operandRange
  else .ok (.aff r.x.toNat r.y.toNat)

/-- `getpt(i)` (R120). -/
def State.getpt (s : State) (i : RegIndex) : Except CommandError Point := (s.pointRegister i).value

/-- The register fields that hold a point value (R35). -/
def Point.register : Point → PointRegister
  | .inf => PointRegister.infinity
  | .aff x y => { inf := false, x := BitVec.ofNat 256 x, y := BitVec.ofNat 256 y }

/-- `PT[i] <- P` (R13, R35). -/
def State.setPoint (s : State) (i : RegIndex) (P : Point) : State := s.setPointRegister i P.register

/-- `in()`, the bytes `IBUF[0 .. ILEN-1]` (R13, R41). -/
def State.input (s : State) : Bytes := s.memRead .ibuf s.ilen.toNat

/-- `if ILEN > IBUFSZ then raise OperandRange`, then `in()` (R233). -/
def State.checkedInput (s : State) : Except CommandError Bytes :=
  if s.ilen.toNat > s.sizes.ibuf then .error .operandRange else .ok s.input

/-- `out(b)` (R13): `BufferOverflow` if the string is longer than `OBUFSZ` (R234), else the writes. -/
def State.out (s : State) (b : Bytes) : Except CommandError State :=
  if b.length > s.sizes.obuf then .error .bufferOverflow else .ok (s.putOutput b)

end Sys2Proof.Machine
end

