-- ==== Sys2Proof/Machine/HashA.lean ====
section
/-! DEFINITION. Hash-A (41_hash_a): constants, compression, the pure function, the accumulator, and the commands
HA.INIT, HA.UPDATE, HA.DIGEST. -/

namespace Sys2Proof.Machine

/-! Constants (R151, R152). -/

/-- The initial chaining state `HA0` (R151). -/
def hashAInitial : HashAWords :=
  ⟨0x6A09E667, 0xBB67AE85, 0x3C6EF372, 0xA54FF53A, 0x510E527F, 0x9B05688C, 0x1F83D9AB, 0x5BE0CD19⟩

/-- The round constants `KA[0..63]` (R152). -/
def hashAConstants : List Word :=
  [0x428A2F98, 0x71374491, 0xB5C0FBCF, 0xE9B5DBA5, 0x3956C25B, 0x59F111F1, 0x923F82A4, 0xAB1C5ED5] ++
  [0xD807AA98, 0x12835B01, 0x243185BE, 0x550C7DC3, 0x72BE5D74, 0x80DEB1FE, 0x9BDC06A7, 0xC19BF174] ++
  [0xE49B69C1, 0xEFBE4786, 0x0FC19DC6, 0x240CA1CC, 0x2DE92C6F, 0x4A7484AA, 0x5CB0A9DC, 0x76F988DA] ++
  [0x983E5152, 0xA831C66D, 0xB00327C8, 0xBF597FC7, 0xC6E00BF3, 0xD5A79147, 0x06CA6351, 0x14292967] ++
  [0x27B70A85, 0x2E1B2138, 0x4D2C6DFC, 0x53380D13, 0x650A7354, 0x766A0ABB, 0x81C2C92E, 0x92722C85] ++
  [0xA2BFE8A1, 0xA81A664B, 0xC24B8B70, 0xC76C51A3, 0xD192E819, 0xD6990624, 0xF40E3585, 0x106AA070] ++
  [0x19A4C116, 0x1E376C08, 0x2748774C, 0x34B0BCB5, 0x391C0CB3, 0x4ED8AA4A, 0x5B9CCA4F, 0x682E6FF3] ++
  [0x748F82EE, 0x78A5636F, 0x84C87814, 0x8CC70208, 0x90BEFFFA, 0xA4506CEB, 0xBEF9A3F7, 0xC67178F2]

/-! Word functions (R153). -/

/-- `ssig0` (R153). -/
def ssig0 (x : Word) : Word := x.rotateRight 7 ^^^ x.rotateRight 18 ^^^ (x >>> 3)

/-- `ssig1` (R153). -/
def ssig1 (x : Word) : Word := x.rotateRight 17 ^^^ x.rotateRight 19 ^^^ (x >>> 10)

/-- `bsig0` (R153). -/
def bsig0 (x : Word) : Word := x.rotateRight 2 ^^^ x.rotateRight 13 ^^^ x.rotateRight 22

/-- `bsig1` (R153). -/
def bsig1 (x : Word) : Word := x.rotateRight 6 ^^^ x.rotateRight 11 ^^^ x.rotateRight 25

/-- `ch` (R153). -/
def ch (x y z : Word) : Word := (x &&& y) ^^^ (~~~x &&& z)

/-- `maj` (R153). -/
def maj (x y z : Word) : Word := (x &&& y) ^^^ (x &&& z) ^^^ (y &&& z)

/-! Compression (R154). -/

/-- The schedule, latest word first, extended by `n` words: `Wt[t-2]`, `Wt[t-7]`, `Wt[t-15]`, `Wt[t-16]` are the
words at positions 1, 6, 14 and 15 of the list (R154). -/
def extendSchedule : Nat → List Word → List Word
  | 0, w => w
  | n + 1, w =>
    extendSchedule n ((ssig1 (w.getD 1 0) + w.getD 6 0 + ssig0 (w.getD 14 0) + w.getD 15 0) :: w)

/-- The message schedule `Wt[0..63]` of a block (R150, R154). -/
def schedule (blk : Bytes) : List Word := (extendSchedule 48 (wordsOf intBe 16 blk).reverse).reverse

/-- One round on the working words `(a, ..., hh)`, with its constant and its schedule word (R154). -/
def roundA (v : HashAWords) (kw : Word × Word) : HashAWords :=
  let t1 := v.h7 + bsig1 v.h4 + ch v.h4 v.h5 v.h6 + kw.1 + kw.2
  let t2 := bsig0 v.h0 + maj v.h0 v.h1 v.h2
  ⟨t1 + t2, v.h0, v.h1, v.h2, v.h3 + t1, v.h4, v.h5, v.h6⟩

/-- The wordwise sum of two chaining states. -/
def HashAWords.add (u v : HashAWords) : HashAWords :=
  ⟨u.h0 + v.h0, u.h1 + v.h1, u.h2 + v.h2, u.h3 + v.h3, u.h4 + v.h4, u.h5 + v.h5, u.h6 + v.h6, u.h7 + v.h7⟩

/-- `compressA(h, blk)` (R154). -/
def compressA (h : HashAWords) (blk : Bytes) : HashAWords :=
  h.add ((hashAConstants.zip (schedule blk)).foldl roundA h)

/-! Padding and the pure function (R155, R156). -/

/-- `padA(rem, L)` (R155): `0x80`, zeros, and the 64-bit big-endian bit length. -/
def padA (rem : Bytes) (bitLength : Nat) : Bytes :=
  rem ++ [0x80] ++ List.replicate (paddingZeros rem.length) 0 ++ be bitLength 8

/-- The chaining state after the full blocks of a string (R156, R158). -/
def compressBlocksA (h : HashAWords) (b : Bytes) : HashAWords := (fullBlocks b).foldl compressA h

/-- The eight words as 32 big-endian bytes (R156). -/
def HashAWords.digest (h : HashAWords) : Bytes :=
  be h.h0.toNat 4 ++ be h.h1.toNat 4 ++ be h.h2.toNat 4 ++ be h.h3.toNat 4 ++
  be h.h4.toNat 4 ++ be h.h5.toNat 4 ++ be h.h6.toNat 4 ++ be h.h7.toNat 4

/-- The pure function `HashA(m)` (R156). -/
def hashA (m : Bytes) : Bytes :=
  (compressBlocksA (compressBlocksA hashAInitial m) (padA (remainder m) (8 * m.length))).digest

/-! The accumulator (R37, R157 to R159). -/

/-- A fresh accumulator (R157). -/
def HashAccumulator.fresh : HashAccumulator := { st := .active, h := hashAInitial, buf := [], bits := 0 }

/-- Append a string: count its bits modulo `2^64`, compress every full block, keep the rest (R158). -/
def HashAccumulator.append (acc : HashAccumulator) (d : Bytes) : HashAccumulator :=
  { acc with
    h := compressBlocksA acc.h (acc.buf ++ d)
    buf := remainder (acc.buf ++ d)
    bits := acc.bits + BitVec.ofNat 64 (8 * d.length) }

/-- The chaining state after the padded tail (R159). -/
def HashAccumulator.finalWords (acc : HashAccumulator) : HashAWords :=
  compressBlocksA acc.h (padA acc.buf acc.bits.toNat)

/-- The accumulator after its digest was taken (R159). -/
def HashAccumulator.finalised (acc : HashAccumulator) : HashAccumulator :=
  { acc with st := .final, h := acc.finalWords, buf := [] }

/-- `if HA.st != ACTIVE then raise HashSequence` (R235). -/
def State.activeAccumulator (s : State) : Except CommandError HashAccumulator :=
  if s.ha.st = .active then .ok s.ha else .error .hashSequence

/-! The commands. -/

/-- HA.INIT (R157). -/
def execHaInit (s : State) : Host.Outcome State Fault Refusal :=
  s.finish (.ok (s.setAccumulator HashAccumulator.fresh))

/-- HA.UPDATE (R158). -/
def execHaUpdate (s : State) : Host.Outcome State Fault Refusal :=
  s.finish do
    let acc ← s.activeAccumulator
    let d ← s.checkedInput
    .ok (s.setAccumulator (acc.append d))

/-- HA.DIGEST (R159). -/
def execHaDigest (s : State) : Host.Outcome State Fault Refusal :=
  s.finish do
    let acc ← s.activeAccumulator
    let t ← s.out acc.finalWords.digest
    .ok (t.setAccumulator acc.finalised)

end Sys2Proof.Machine
end

