-- ==== Sys2Proof/Machine/Base58.lean ====
section
/-! DEFINITION. Base58 and Base58Check (43_base58): the alphabet, encode, decode, the checksum, and the commands
B58ENC, B58DEC, B58CENC, B58CDEC. -/

namespace Sys2Proof.Machine

/-- The alphabet `ALPH` as ASCII bytes (R190). -/
def alphabet : Bytes :=
  (['1', '2', '3', '4', '5', '6', '7', '8', '9', 'A', 'B', 'C', 'D', 'E', 'F', 'G', 'H', 'J', 'K', 'L'] ++
   ['M', 'N', 'P', 'Q', 'R', 'S', 'T', 'U', 'V', 'W', 'X', 'Y', 'Z', 'a', 'b', 'c', 'd', 'e', 'f', 'g'] ++
   ['h', 'i', 'j', 'k', 'm', 'n', 'o', 'p', 'q', 'r', 's', 't', 'u', 'v', 'w', 'x', 'y', 'z']).map
    (fun ch => BitVec.ofNat 8 ch.toNat)

/-- `ALPH[i]` (R190). -/
def symbol (i : Nat) : Byte := alphabet.getD i 0

/-- `idx(ch)`: the `i` with `ALPH[i] = ch`, where there is one (R190). -/
def symbolIndex (ch : Byte) : Option Nat := alphabet.findIdx? (fun a => a == ch)

/-- The number of leading bytes equal to `ch`. -/
def leadingCount (ch : Byte) : Bytes → Nat
  | [] => 0
  | b :: rest => if b = ch then leadingCount ch rest + 1 else 0

/-- The loop of R191 for at most `fuel` turns: the symbols of `v`, most significant first, before `digits`. -/
def digitLoop : Nat → Nat → Bytes → Bytes
  | 0, _, digits => digits
  | fuel + 1, v, digits => if v = 0 then digits else digitLoop fuel (v / 58) (symbol (v % 58) :: digits)

/-- `b58encode(b)` (R191). Each turn of the loop divides by 58, so `2 * len(b)` turns are enough (log 13). -/
def b58encode (b : Bytes) : Bytes :=
  List.replicate (leadingCount 0x00 b) 0x31 ++ digitLoop (2 * b.length) (intBe b) []

/-- The loop of R192: the integer of a text after the value `v` of the part read so far. -/
def decodeLoop : Nat → Bytes → Except CommandError Nat
  | v, [] => .ok v
  | v, ch :: rest =>
    match symbolIndex ch with
    | none => .error .invalidAlphabetCharacter
    | some i => decodeLoop (v * 58 + i) rest

/-- `b58decode(s)` (R192). -/
def b58decode (text : Bytes) : Except CommandError Bytes := do
  let v ← decodeLoop 0 text
  .ok (List.replicate (leadingCount 0x31 text) 0x00 ++ minbe v)

/-- `checksum(payload)` (R195): the first four bytes of the double Hash-A digest. -/
def checksum (payload : Bytes) : Bytes := (hashA (hashA payload)).take 4

/-- The payload with its checksum, Base58-encoded: the common tail of R197, R213 and R214. -/
def b58checkEncode (payload : Bytes) : Bytes := b58encode (payload ++ checksum payload)

/-- A decoded string without its last four bytes (R198, R215). -/
def payloadOf (raw : Bytes) : Bytes := raw.take (raw.length - 4)

/-- The last four bytes of a decoded string (R198, R215). -/
def checksumOf (raw : Bytes) : Bytes := raw.drop (raw.length - 4)

/-- Decode a text, refuse fewer than `least` decoded bytes, verify the checksum: the common head of R198
(`least = 4`) and R215 (`least = 5`). -/
def b58checkDecode (least : Nat) (text : Bytes) : Except CommandError Bytes := do
  let raw ← b58decode text
  if raw.length < least then .error .invalidKeyEncoding
  else if checksum (payloadOf raw) ≠ checksumOf raw then .error .invalidChecksum
  else .ok (payloadOf raw)

/-! The commands. -/

/-- B58ENC (R193). -/
def execB58enc (s : State) : Host.Outcome State Fault Refusal :=
  s.finish do
    let b ← s.checkedInput
    s.out (b58encode b)

/-- B58DEC (R194). -/
def execB58dec (s : State) : Host.Outcome State Fault Refusal :=
  s.finish do
    let text ← s.checkedInput
    let b ← b58decode text
    s.out b

/-- B58CENC (R197). -/
def execB58cenc (s : State) : Host.Outcome State Fault Refusal :=
  s.finish do
    let payload ← s.checkedInput
    s.out (b58checkEncode payload)

/-- B58CDEC (R198). -/
def execB58cdec (s : State) : Host.Outcome State Fault Refusal :=
  s.finish do
    let text ← s.checkedInput
    let payload ← b58checkDecode 4 text
    s.out payload

end Sys2Proof.Machine
end

