-- ==== Sys2Proof/Machine/Ecc.lean ====
section
/-! DEFINITION. The curve engine (40_ecc): field arithmetic, the modular inverse, point addition and doubling,
scalar multiplication, the predicates, and the commands MODINV, PADD, PDBL, SMUL, ONCURVE, KEYVALID, PLDG. -/

namespace Sys2Proof.Machine

/-! Field arithmetic (R12). -/

/-- `a +p b` (R12). -/
def fieldAdd (a b : Nat) : Nat := (a + b) % fieldPrime

/-- `a -p b` (R12). -/
def fieldSub (a b : Nat) : Nat := (a + (fieldPrime - b % fieldPrime)) % fieldPrime

/-- `a *p b` (R12). -/
def fieldMul (a b : Nat) : Nat := (a * b) % fieldPrime

/-- The loop of R121 on `(r0, r1)` and `(t0, t1)`, for at most `fuel` turns; the result is `t0` when `r1 = 0`. -/
def euclidLoop : Nat → Nat → Nat → Int → Int → Int
  | 0, _, _, t0, _ => t0
  | fuel + 1, r0, r1, t0, t1 =>
    if r1 = 0 then t0
    else euclidLoop fuel r1 (r0 % r1) t1 (t0 - (r0 / r1 : Nat) * t1)

/-- Turns that are always enough for a 256-bit modulus: two turns at least halve `r0` (log 12). -/
def euclidFuel : Nat := 514

/-- `inv(a)` (R121): the extended-Euclidean inverse modulo `p`. -/
def modInverse (a : Nat) : Except CommandError Nat :=
  if a % fieldPrime = 0 then .error .divisionByZero
  else .ok (euclidLoop euclidFuel fieldPrime (a % fieldPrime) 0 1 % (fieldPrime : Int)).toNat

/-! Points. -/

/-- The end of an addition or a doubling with slope `lam` through `(x1, y1)` and a second point with coordinate
`x2` (R123 case 5, R124 case 3). -/
def chordPoint (lam x1 y1 x2 : Nat) : Point :=
  let x3 := fieldSub (fieldSub (fieldMul lam lam) x1) x2
  .aff x3 (fieldSub (fieldMul lam (fieldSub x1 x3)) y1)

/-- `pointDouble(P)` (R124). -/
def pointDouble : Point → Except CommandError Point
  | .inf => .ok .inf
  | .aff x1 y1 =>
    if y1 = 0 then .error .divisionByZero
    else do
      let inverse ← modInverse (fieldMul 2 y1)
      let lam := fieldMul (fieldAdd (fieldMul (fieldMul 3 x1) x1) coefficientA) inverse
      .ok (chordPoint lam x1 y1 x1)

/-- `pointAdd(P, Q)` (R123): the cases in the rule's order. -/
def pointAdd : Point → Point → Except CommandError Point
  | .inf, Q => .ok Q
  | .aff x1 y1, .inf => .ok (.aff x1 y1)
  | .aff x1 y1, .aff x2 y2 =>
    if x1 = x2 ∧ y1 = y2 then pointDouble (.aff x1 y1)
    else if x1 = x2 ∧ fieldAdd y1 y2 = 0 then .ok .inf
    else do
      let inverse ← modInverse (fieldSub x2 x1)
      .ok (chordPoint (fieldMul (fieldSub y2 y1) inverse) x1 y1 x2)

/-- The iterations of R126 from bit `i` on: `turns` of them, with the accumulator `R` and the running point `Q`. -/
def doubleAndAdd (k : Scalar) : Nat → Nat → Point → Point → Except CommandError Point
  | 0, _, R, _ => .ok R
  | turns + 1, i, R, Q => do
    let R' ← if k.getLsbD i then pointAdd R Q else .ok R
    let Q' ← pointDouble Q
    doubleAndAdd k turns (i + 1) R' Q'

/-- `scalarMultiply(k, P)` (R126): exactly 256 iterations. -/
def scalarMultiply (k : Scalar) (P : Point) : Except CommandError Point := doubleAndAdd k 256 0 .inf P

/-- `isOnCurve(P)` (R129): false for `INF`. -/
def isOnCurve : Point → Bool
  | .inf => false
  | .aff x y =>
    fieldMul y y ==
      fieldAdd (fieldAdd (fieldMul (fieldMul x x) x) (fieldMul coefficientA x)) coefficientB

/-- `isValidPrivateKey(k)` (R131): `1 <= k` and `k <= n - 1`. -/
def isValidPrivateKey (k : Scalar) : Bool := decide (1 ≤ k.toNat ∧ k.toNat ≤ groupOrder - 1)

/-- The generator `AFF(Gx, Gy)` (R30). -/
def generator : Point := .aff generatorX generatorY

/-! The commands. -/

/-- MODINV (R122): `S[rd] <- inv(S[ra])`. -/
def execModinv (rd ra : RegIndex) (s : State) : Host.Outcome State Fault Refusal :=
  s.finish do
    let r ← modInverse (s.scalar ra).toNat
    .ok (s.setScalar rd (BitVec.ofNat 256 r))

/-- PADD (R125): `P <- getpt(ra); Q <- getpt(rb); PT[rd] <- pointAdd(P, Q)`. -/
def execPadd (rd ra rb : RegIndex) (s : State) : Host.Outcome State Fault Refusal :=
  s.finish do
    let P ← s.getpt ra
    let Q ← s.getpt rb
    let R ← pointAdd P Q
    .ok (s.setPoint rd R)

/-- PDBL (R127): `PT[rd] <- pointDouble(getpt(ra))`. -/
def execPdbl (rd ra : RegIndex) (s : State) : Host.Outcome State Fault Refusal :=
  s.finish do
    let P ← s.getpt ra
    let R ← pointDouble P
    .ok (s.setPoint rd R)

/-- SMUL (R128): `PT[rd] <- scalarMultiply(S[rb], getpt(ra))`. -/
def execSmul (rd ra rb : RegIndex) (s : State) : Host.Outcome State Fault Refusal :=
  s.finish do
    let P ← s.getpt ra
    let R ← scalarMultiply (s.scalar rb) P
    .ok (s.setPoint rd R)

/-- ONCURVE (R130): `FLAGS.T <- isOnCurve(getpt(ra))`. -/
def execOncurve (ra : RegIndex) (s : State) : Host.Outcome State Fault Refusal :=
  s.finish do
    let P ← s.getpt ra
    .ok (s.setFlagT (isOnCurve P))

/-- KEYVALID (R132): `FLAGS.T <- isValidPrivateKey(S[ra])`. -/
def execKeyvalid (ra : RegIndex) (s : State) : Host.Outcome State Fault Refusal :=
  s.finish (.ok (s.setFlagT (isValidPrivateKey (s.scalar ra))))

/-- PLDG (R133): `PT[rd] <- AFF(Gx, Gy)`. -/
def execPldg (rd : RegIndex) (s : State) : Host.Outcome State Fault Refusal :=
  s.finish (.ok (s.setPoint rd generator))

end Sys2Proof.Machine
end

