-- ==== Sys2Proof/Machine/HashB.lean ====
section
/-! DEFINITION. Hash-B (42_hash_b): constants, tables, compression, the pure function, and the command HB.HASH. -/

namespace Sys2Proof.Machine

/-- Five chaining words of Hash-B (R170). -/
structure HashBWords where
  h0 : Word
  h1 : Word
  h2 : Word
  h3 : Word
  h4 : Word
deriving DecidableEq, Repr

/-! Constants and tables, one row a round (R171 to R174). -/

/-- The initial chaining state `HB0` (R171). -/
def hashBInitial : HashBWords := ⟨0x67452301, 0xEFCDAB89, 0x98BADCFE, 0x10325476, 0xC3D2E1F0⟩

/-- Message-word selection of the left pipeline, `RL` (R172). -/
def selectLeft : List (List Nat) :=
  [ [0, 1, 2, 3, 4, 5, 6, 7, 8, 9, 10, 11, 12, 13, 14, 15],
    [7, 4, 13, 1, 10, 6, 15, 3, 12, 0, 9, 5, 2, 14, 11, 8],
    [3, 10, 14, 4, 9, 15, 8, 1, 2, 7, 0, 6, 13, 11, 5, 12],
    [1, 9, 11, 10, 0, 8, 12, 4, 13, 3, 7, 15, 14, 5, 6, 2],
    [4, 0, 5, 9, 7, 12, 2, 10, 14, 1, 3, 8, 11, 6, 15, 13] ]

/-- Message-word selection of the right pipeline, `RR` (R172). -/
def selectRight : List (List Nat) :=
  [ [5, 14, 7, 0, 9, 2, 11, 4, 13, 6, 15, 8, 1, 10, 3, 12],
    [6, 11, 3, 7, 0, 13, 5, 10, 14, 15, 8, 12, 4, 9, 1, 2],
    [15, 5, 1, 3, 7, 14, 6, 9, 11, 8, 12, 2, 10, 0, 4, 13],
    [8, 6, 4, 1, 3, 11, 15, 0, 5, 12, 2, 13, 9, 7, 10, 14],
    [12, 15, 10, 4, 1, 5, 8, 7, 6, 2, 13, 14, 0, 3, 9, 11] ]

/-- Rotation amounts of the left pipeline, `SL` (R173). -/
def rotateLeftLine : List (List Nat) :=
  [ [11, 14, 15, 12, 5, 8, 7, 9, 11, 13, 14, 15, 6, 7, 9, 8],
    [7, 6, 8, 13, 11, 9, 7, 15, 7, 12, 15, 9, 11, 7, 13, 12],
    [11, 13, 6, 7, 14, 9, 13, 15, 14, 8, 13, 6, 5, 12, 7, 5],
    [11, 12, 14, 15, 14, 15, 9, 8, 9, 14, 5, 6, 8, 6, 5, 12],
    [9, 15, 5, 11, 6, 8, 13, 12, 5, 12, 13, 14, 11, 8, 5, 6] ]

/-- Rotation amounts of the right pipeline, `SR` (R173). -/
def rotateRightLine : List (List Nat) :=
  [ [8, 9, 9, 11, 13, 15, 15, 5, 7, 7, 8, 11, 14, 14, 12, 6],
    [9, 13, 15, 7, 12, 8, 9, 11, 7, 7, 12, 7, 6, 15, 13, 11],
    [9, 7, 15, 11, 8, 6, 6, 14, 12, 13, 5, 14, 13, 13, 7, 5],
    [15, 5, 8, 11, 14, 14, 6, 14, 6, 9, 12, 9, 12, 5, 15, 8],
    [8, 5, 12, 9, 12, 5, 14, 6, 8, 13, 6, 5, 15, 13, 11, 11] ]

/-- Round constants of the left pipeline, `KL` (R174). -/
def constantsLeft : List Word := [0x00000000, 0x5A827999, 0x6ED9EBA1, 0x8F1BBCDC, 0xA953FD4E]

/-- Round constants of the right pipeline, `KR` (R174). -/
def constantsRight : List Word := [0x50A28BE6, 0x5C4DD124, 0x6D703EF3, 0x7A6D76E9, 0x00000000]

/-- The Boolean functions `fB(0, ...)` to `fB(4, ...)` (R175). -/
def boolB : Nat → Word → Word → Word → Word
  | 0, x, y, z => x ^^^ y ^^^ z
  | 1, x, y, z => (x &&& y) ||| (~~~x &&& z)
  | 2, x, y, z => (x ||| ~~~y) ^^^ z
  | 3, x, y, z => (x &&& z) ||| (y &&& ~~~z)
  | _, x, y, z => x ^^^ (y ||| ~~~z)

/-! Compression (R176). -/

/-- One step of a pipeline on `(a, b, c, d, e)`, with the round's function and constant, the selected message word
and the rotation amount (R176). -/
def stepB (f : Word → Word → Word → Word) (k x : Word) (amount : Nat) (v : HashBWords) : HashBWords :=
  ⟨v.h4, (v.h0 + f v.h1 v.h2 v.h3 + x + k).rotateLeft amount + v.h4, v.h1, v.h2.rotateLeft 10, v.h3⟩

/-- The sixteen steps of one round of a pipeline. -/
def roundB (f : Word → Word → Word → Word) (k : Word) (X : List Word) (select rotate : List Nat)
    (v : HashBWords) : HashBWords :=
  (select.zip rotate).foldl (fun u step => stepB f k (X.getD step.1 0) step.2 u) v

/-- The left pipeline: rounds 0 to 4 with `fB(r, ...)` (R175, R176). -/
def leftLine (X : List Word) (h : HashBWords) : HashBWords :=
  (List.range 5).foldl
    (fun v r => roundB (boolB r) (constantsLeft.getD r 0) X (selectLeft.getD r []) (rotateLeftLine.getD r []) v) h

/-- The right pipeline: rounds 0 to 4 with `fB(4 - r, ...)` (R175, R176). -/
def rightLine (X : List Word) (h : HashBWords) : HashBWords :=
  (List.range 5).foldl
    (fun v r =>
      roundB (boolB (4 - r)) (constantsRight.getD r 0) X (selectRight.getD r []) (rotateRightLine.getD r []) v) h

/-- The cross-addition of the two pipelines' ends into the chaining state (R176). -/
def crossAdd (h l r : HashBWords) : HashBWords :=
  ⟨h.h1 + l.h2 + r.h3, h.h2 + l.h3 + r.h4, h.h3 + l.h4 + r.h0, h.h4 + l.h0 + r.h1, h.h0 + l.h1 + r.h2⟩

/-- `compressB(h, blk)` (R176). -/
def compressB (h : HashBWords) (blk : Bytes) : HashBWords :=
  let X := wordsOf intLe 16 blk
  crossAdd h (leftLine X h) (rightLine X h)

/-! Padding and the pure function (R177, R178). -/

/-- `padB(m)` (R177): `0x80`, zeros, and the 64-bit little-endian bit length. -/
def padB (m : Bytes) : Bytes :=
  m ++ [0x80] ++ List.replicate (paddingZeros m.length) 0 ++ le (8 * m.length) 8

/-- The five words as 20 little-endian bytes (R178). -/
def HashBWords.digest (h : HashBWords) : Bytes :=
  le h.h0.toNat 4 ++ le h.h1.toNat 4 ++ le h.h2.toNat 4 ++ le h.h3.toNat 4 ++ le h.h4.toNat 4

/-- The pure function `HashB(m)` (R178). -/
def hashB (m : Bytes) : Bytes := ((fullBlocks (padB m)).foldl compressB hashBInitial).digest

/-! The command. -/

/-- HB.HASH (R179). -/
def execHbHash (s : State) : Host.Outcome State Fault Refusal :=
  s.finish do
    let m ← s.checkedInput
    s.out (hashB m)

end Sys2Proof.Machine
end

