-- ==== Sys2Proof/Machine/Derivation.lean ====
section
/-! DEFINITION. The derivation pipeline (44_derivation): serialisation of a public key, WIF payloads, and the
commands DERIVEPUB, DERIVEADDR, WIFENC, WIFDEC. -/

namespace Sys2Proof.Machine

/-- `serialize(AFF(x, y), c)` (R211). -/
def serialize (x y : Nat) (c : Bool) : Bytes :=
  if c then (if y % 2 = 0 then 0x02 else 0x03) :: be x 32 else 0x04 :: (be x 32 ++ be y 32)

/-- `if not isOnCurve(Q) then raise PointNotOnCurve`, giving the coordinates of the point; `INF` counts as not on
the curve (R129, R212). -/
def requireOnCurve : Point → Except CommandError (Nat × Nat)
  | .inf => .error .pointNotOnCurve
  | .aff x y => if isOnCurve (.aff x y) then .ok (x, y) else .error .pointNotOnCurve

/-- `if not isValidPrivateKey(k) then raise InvalidPrivateKey` (R212). -/
def requireValidKey (k : Scalar) : Except CommandError Scalar :=
  if isValidPrivateKey k then .ok k else .error .invalidPrivateKey

/-- `HashB(HashA(data))`, the hash160 (R16, R213). -/
def hash160 (data : Bytes) : Bytes := hashB (hashA data)

/-- The WIF payload of a key (R214): version, 32 big-endian bytes, the marker if compressed. -/
def wifPayload (k : Scalar) (c t : Bool) : Bytes :=
  (if t then 0xEF else 0x80) :: (be k.toNat 32 ++ (if c then [0x01] else []))

/-- The key field of a WIF payload with the optional marker stripped (R215): the key and whether it was marked. -/
def stripMarker (key : Bytes) : Bytes × Bool :=
  if key.length = 33 ∧ key.getD 32 0 = 0x01 then (key.take 32, true) else (key, false)

/-- The key, the compression flag and the version byte of a verified WIF payload (R215). -/
def wifParts (payload : Bytes) : Except CommandError (Scalar × Bool × Byte) :=
  let key := stripMarker (payload.drop 1)
  if key.1.length ≠ 32 then .error .invalidKeyEncoding
  else .ok (BitVec.ofNat 256 (intBe key.1), key.2, payload.getD 0 0)

/-! The commands. -/

/-- DERIVEPUB (R212). -/
def execDerivepub (rd ra : RegIndex) (c : Bool) (s : State) : Host.Outcome State Fault Refusal :=
  s.finish do
    let k ← requireValidKey (s.scalar ra)
    let Q ← scalarMultiply k generator
    let xy ← requireOnCurve Q
    (s.setPoint rd Q).out (serialize xy.1 xy.2 c)

/-- DERIVEADDR (R213). -/
def execDeriveaddr (s : State) : Host.Outcome State Fault Refusal :=
  s.finish do
    let key ← s.checkedInput
    s.out (b58checkEncode (0x00 :: hash160 key))

/-- WIFENC (R214). -/
def execWifenc (ra : RegIndex) (c t : Bool) (s : State) : Host.Outcome State Fault Refusal :=
  s.finish (s.out (b58checkEncode (wifPayload (s.scalar ra) c t)))

/-- WIFDEC (R215). -/
def execWifdec (rd : RegIndex) (s : State) : Host.Outcome State Fault Refusal :=
  s.finish do
    let text ← s.checkedInput
    let payload ← b58checkDecode 5 text
    let parts ← wifParts payload
    .ok ((s.setScalar rd parts.1).setFlagsWif parts.2.1 parts.2.2)

end Sys2Proof.Machine
end

