-- ==== Sys2Proof/Machine/Dispatch.lean ====
section
/-! DEFINITION. One arm per command: the meaning that the CORE step (R72) runs. -/

namespace Sys2Proof.Machine

def exec (i : Instr) (s : State) : Host.Outcome State Fault Refusal :=
  match i with
  | .modinv rd ra => Sys2Proof.Machine.execModinv rd ra s
  | .padd rd ra rb => Sys2Proof.Machine.execPadd rd ra rb s
  | .pdbl rd ra => Sys2Proof.Machine.execPdbl rd ra s
  | .smul rd ra rb => Sys2Proof.Machine.execSmul rd ra rb s
  | .oncurve ra => Sys2Proof.Machine.execOncurve ra s
  | .keyvalid ra => Sys2Proof.Machine.execKeyvalid ra s
  | .pldg rd => Sys2Proof.Machine.execPldg rd s
  | .haInit => Sys2Proof.Machine.execHaInit s
  | .haUpdate => Sys2Proof.Machine.execHaUpdate s
  | .haDigest => Sys2Proof.Machine.execHaDigest s
  | .hbHash => Sys2Proof.Machine.execHbHash s
  | .b58enc => Sys2Proof.Machine.execB58enc s
  | .b58dec => Sys2Proof.Machine.execB58dec s
  | .b58cenc => Sys2Proof.Machine.execB58cenc s
  | .b58cdec => Sys2Proof.Machine.execB58cdec s
  | .derivepub rd ra c => Sys2Proof.Machine.execDerivepub rd ra c s
  | .deriveaddr => Sys2Proof.Machine.execDeriveaddr s
  | .wifenc ra c t => Sys2Proof.Machine.execWifenc ra c t s
  | .wifdec rd => Sys2Proof.Machine.execWifdec rd s

end Sys2Proof.Machine
end

