-- ==== Sys2Proof/Machine/Window.lean ====
section
/-! DEFINITION. The HOST's register window: the address map (R61), reads and writes of a word (R62 to R67), and
the HOST's transactions. -/

namespace Sys2Proof.Machine

/-- What a window address names (R61). Byte indices of the buffer windows are `4m` to `4m+3` (R64). -/
inductive Location where
  | cmd
  | status
  | errcode
  | esticky
  | ilen
  | olen
  | flags
  | scalarWord (i : Fin 4) (j : Fin 8)
  | pointX (i : Fin 4) (j : Fin 8)
  | pointY (i : Fin 4) (j : Fin 8)
  | pointTag (i : Fin 4)
  | constantWord (k : Fin 6) (j : Fin 8)
  | ibufWord (m : Fin 256)
  | obufWord (m : Fin 256)
  | unmapped
deriving DecidableEq, Repr

/-- The control registers at the bottom of the window (R61). -/
def controlLocation : Nat → Location
  | 0x000 => .cmd
  | 0x004 => .status
  | 0x008 => .errcode
  | 0x00C => .esticky
  | 0x010 => .ilen
  | 0x014 => .olen
  | 0x018 => .flags
  | _ => .unmapped

/-- The block of one point register, from its first address (R61): `x`, `y`, the tag, then nothing. -/
def pointLocation (i : Fin 4) (offset : Nat) : Location :=
  if offset < 0x20 then .pointX i (Fin.ofNat 8 (offset / 4))
  else if offset < 0x40 then .pointY i (Fin.ofNat 8 (offset / 4))
  else if offset = 0x40 then .pointTag i
  else .unmapped

/-- The address map (R61). Every entry is a word at a multiple of 4. A buffer window is 1024 byte addresses; the
words whose bytes lie at or beyond the buffer size read 0 and ignore writes (R64, R65). -/
def locate (a : WindowAddress) : Location :=
  let n := a.toNat
  if n % 4 ≠ 0 then .unmapped
  else if n < 0x100 then controlLocation n
  else if n < 0x180 then .scalarWord (Fin.ofNat 4 ((n - 0x100) / 0x20)) (Fin.ofNat 8 (n / 4))
  else if n < 0x200 then .unmapped
  else if n < 0x400 then pointLocation (Fin.ofNat 4 ((n - 0x200) / 0x80)) (n % 0x80)
  else if n < 0x4C0 then .constantWord (Fin.ofNat 6 ((n - 0x400) / 0x20)) (Fin.ofNat 8 (n / 4))
  else if n < 0x800 then .unmapped
  else if n < 0xC00 then .ibufWord (Fin.ofNat 256 (n / 4))
  else .obufWord (Fin.ofNat 256 (n / 4))

/-- The address of `S[i]` word `j` (R61). -/
def scalarAddress (i : Fin 4) (j : Fin 8) : WindowAddress := BitVec.ofNat 12 (0x100 + 0x20 * i.val + 4 * j.val)

/-- The address of `PT[i].x` word `j` (R61). -/
def pointXAddress (i : Fin 4) (j : Fin 8) : WindowAddress := BitVec.ofNat 12 (0x200 + 0x80 * i.val + 4 * j.val)

/-- The address of `PT[i].y` word `j` (R61). -/
def pointYAddress (i : Fin 4) (j : Fin 8) : WindowAddress := BitVec.ofNat 12 (0x220 + 0x80 * i.val + 4 * j.val)

/-- The address of the tag word of `PT[i]` (R61). -/
def pointTagAddress (i : Fin 4) : WindowAddress := BitVec.ofNat 12 (0x240 + 0x80 * i.val)

/-- The address of word `j` of constant `k` (R61). -/
def constantAddress (k : Fin 6) (j : Fin 8) : WindowAddress := BitVec.ofNat 12 (0x400 + 0x20 * k.val + 4 * j.val)

/-- The address of `IBUF` bytes `4m` to `4m+3` (R61, R64). -/
def ibufAddress (m : Fin 256) : WindowAddress := BitVec.ofNat 12 (0x800 + 4 * m.val)

/-- The address of `OBUF` bytes `4m` to `4m+3` (R61, R64). -/
def obufAddress (m : Fin 256) : WindowAddress := BitVec.ofNat 12 (0xC00 + 4 * m.val)

/-- The address of a location (R61); an unmapped location has none. -/
def addressOf : Location → Option WindowAddress
  | .cmd => some 0x000
  | .status => some 0x004
  | .errcode => some 0x008
  | .esticky => some 0x00C
  | .ilen => some 0x010
  | .olen => some 0x014
  | .flags => some 0x018
  | .scalarWord i j => some (scalarAddress i j)
  | .pointX i j => some (pointXAddress i j)
  | .pointY i j => some (pointYAddress i j)
  | .pointTag i => some (pointTagAddress i)
  | .constantWord k j => some (constantAddress k j)
  | .ibufWord m => some (ibufAddress m)
  | .obufWord m => some (obufAddress m)
  | .unmapped => none

/-- Word `j` of a 256-bit quantity: bits `32j+31` to `32j` (R61). -/
def scalarWord (v : Scalar) (j : Fin 8) : Word := v.extractLsb' (32 * j.val) 32

/-- A 256-bit quantity with word `j` replaced (R61). -/
def setScalarWord (v : Scalar) (j : Fin 8) (w : Word) : Scalar :=
  (v &&& ~~~((0xFFFFFFFF : Scalar) <<< (32 * j.val))) ||| (w.zeroExtend 256 <<< (32 * j.val))

/-- Byte `k` of a buffer as the HOST's window shows it: 0 at or beyond the buffer size (R64). -/
def State.windowByte (s : State) (b : Config.Buffer) (k : Nat) : Byte :=
  if k < s.bufferSize b then s.bufferByte b k else 0

/-- The word of buffer bytes `4m` to `4m+3`, lowest index in the low byte lane (R64). -/
def State.bufferWord (s : State) (b : Config.Buffer) (m : Nat) : Word :=
  BitVec.ofNat 32 (intLe ((List.range 4).map (fun i => s.windowByte b (4 * m + i))))

/-- `IBUF[4m+i] <- w[8i+7:8i]` for the lanes `i` below `lanes` with `4m+i < IBUFSZ` (R64). -/
def writeLanes (size m : Nat) (w : Word) : Nat → Memory → Memory
  | 0, mem => mem
  | i + 1, mem =>
    let before := writeLanes size m w i mem
    if 4 * m + i < size then before.write (4 * m + i) (w.extractLsb' (8 * i) 8) else before

/-- The word a read returns with `BUSY = 0` (R61, R65). -/
def State.windowRead (s : State) (a : WindowAddress) : Word :=
  match locate a with
  | .cmd => 0
  | .status => s.statusWord
  | .errcode => s.errcodeWord
  | .esticky => s.estickyWord
  | .ilen => s.ilenWord
  | .olen => s.olenWord
  | .flags => s.flags.word
  | .scalarWord i j => scalarWord (s.scalar i) j
  | .pointX i j => scalarWord (s.pointRegister i).x j
  | .pointY i j => scalarWord (s.pointRegister i).y j
  | .pointTag i => BitVec.ofNat 32 (s.pointRegister i).inf.toNat
  | .constantWord k j => scalarWord (curveConstant k) j
  | .ibufWord m => s.bufferWord .ibuf m.val
  | .obufWord m => s.bufferWord .obuf m.val
  | .unmapped => 0

/-- The effect of a write with `BUSY = 0` (R61, R65): a write to `CMD` launches (R70), a write to `ESTICKY` clears
the bits written as 1 (R27), the other writable words store, the rest ignore the write. -/
def State.windowWrite (s : State) (a : WindowAddress) (w : Word) : State :=
  match locate a with
  | .cmd => s.launch w
  | .status => s
  | .errcode => s
  | .esticky => { s with esticky := s.esticky &&& ~~~w }
  | .ilen => { s with ilen := w.extractLsb' 0 9 }
  | .olen => s
  | .flags => s
  | .scalarWord i j => s.setScalar i (setScalarWord (s.scalar i) j w)
  | .pointX i j =>
    s.setPointRegister i { s.pointRegister i with x := setScalarWord (s.pointRegister i).x j w }
  | .pointY i j =>
    s.setPointRegister i { s.pointRegister i with y := setScalarWord (s.pointRegister i).y j w }
  | .pointTag i => s.setPointRegister i { s.pointRegister i with inf := w.getLsbD 0 }
  | .constantWord _ _ => s
  | .ibufWord m => { s with ibuf := writeLanes s.sizes.ibuf m.val w 4 s.ibuf }
  | .obufWord _ => s
  | .unmapped => s

/-- `HostWrite(a, w)`: ignored while `BUSY = 1` (R66). -/
def State.hostWrite (s : State) (a : WindowAddress) (w : Word) : State :=
  if s.busy then s else s.windowWrite a w

/-- `HostRead(a)`: while `BUSY = 1` a read of anything but `STATUS` returns a free word (R66, log 7). The state of
the CORE is not disturbed. -/
def State.hostRead (s : State) (a : WindowAddress) : State :=
  if s.busy && locate a != .status then
    { s with rdata := Config.busyRead s.draws, draws := s.draws + 1 }
  else
    { s with rdata := s.windowRead a }

/-- One HOST transaction. Those that are not part of the interface are refused by name (R63). -/
def State.hostMove (s : State) (m : HostMove) : Host.Outcome State Fault Refusal :=
  if !m.fullWidth then .refused .narrowTransaction
  else if !m.aligned then .refused .misalignedTransaction
  else
    match m with
    | .write _ a w => .next (s.hostWrite a w)
    | .read _ a => .next (s.hostRead a)

end Sys2Proof.Machine
end

