-- ==== Sys2Proof/Machine/Step.lean ====
section
/-! DEFINITION. The step: the next event of the total order of R74 happens. -/

namespace Sys2Proof.Machine

/-- The CORE step (R72): run the latched command; an illegal word fails with `IllegalCommand` (R98). -/
def coreStep (s : State) : Host.Outcome State Fault Refusal :=
  match s.fetchCommand with
  | .ok i => exec i s
  | .error _ => .next (s.abort .illegalCommand)

/-- The CORE's turn: its step is enabled exactly when `BUSY = 1` (R72); otherwise nothing changes. -/
def coreTurn (s : State) : Host.Outcome State Fault Refusal :=
  if s.busy then coreStep s else .next s

/-- One event. -/
def runEvent (e : Event) (s : State) : Host.Outcome State Fault Refusal :=
  match e with
  | .host m => s.hostMove m
  | .core => coreTurn s
  | .reset => .next s.applyReset

/-- One step of the machine (R74). -/
def step (s : State) : Host.Outcome State Fault Refusal := runEvent s.nextEvent.1 s.nextEvent.2

/-- The state whose very next step runs the command word whose low `nbits` bits are those of `w`: the word is
launched as by a write to `CMD` (R70), and the CORE has the next turn (log 4). -/
def State.withFetchWord (s : State) (nbits w : Nat) : State :=
  { s.launch (tableWord nbits w) with
    agenda := match s.agenda with
      | [] => []
      | e :: rest => .core :: e :: rest }

end Sys2Proof.Machine
end

