-- ==== Sys2Proof/Safety.lean ====
section
/-! DEFINITION. What the statements call a sound state and a safe run, and the words they share for the end of a
command. -/

namespace Sys2Proof

open Sys2Proof.Machine

/-- The facts that hold at reset and after every step. -/
structure Machine.State.Sound (s : State) : Prop where
  /-- The buffer sizes obey R7. -/
  sizes : s.sizes.Legal
  /-- At most one of `BUSY`, `DONE`, `ERR` is 1 (R25). -/
  oneStatus : s.busy.toNat + s.done.toNat + s.err.toNat ≤ 1
  /-- `ERRCODE` is 0 unless the last command failed (R26). -/
  noErrorCode : s.err = false → s.errcode = 0
  /-- `ERRCODE` after a failed command is a code of R231. -/
  errorCode : s.err = true → 1 ≤ s.errcode.toNat ∧ s.errcode.toNat ≤ 10
  /-- Bits 0 and 31:11 of `ESTICKY` are 0 (R27). -/
  sticky : s.esticky &&& ~~~estickyBits = 0
  /-- `OLEN <= OBUFSZ` (R29). -/
  outputLength : s.olen.toNat ≤ s.sizes.obuf
  /-- `IBUF` is in canonical form. -/
  ibufForm : s.ibuf.wf
  /-- `IBUF` lists no index at or beyond `IBUFSZ` (R41). -/
  ibufBound : s.ibuf.within s.sizes.ibuf
  /-- `OBUF` is in canonical form. -/
  obufForm : s.obuf.wf
  /-- `OBUF` lists no index at or beyond `OBUFSZ` (R42). -/
  obufBound : s.obuf.within s.sizes.obuf
  /-- The pending bytes are fewer than one block (R37). -/
  pending : s.ha.buf.length ≤ 63
  /-- The bit counter of a running message agrees with the pending bytes modulo a block (R37, R158). -/
  counted : s.ha.st = .active → s.ha.bits.toNat % 512 = 8 * s.ha.buf.length

/-- Every HOST transaction still to come is part of the interface (R63). -/
def Machine.State.LegalAgenda (s : State) : Prop := ∀ e ∈ s.agenda, e.wellFormed = true

/-- The commands that write `OBUF` and `OLEN` when they end `Ok` (R42). -/
def producesOutput : Instr → Bool
  | .modinv _ _ => false
  | .padd _ _ _ => false
  | .pdbl _ _ => false
  | .smul _ _ _ => false
  | .oncurve _ => false
  | .keyvalid _ => false
  | .pldg _ => false
  | .haInit => false
  | .haUpdate => false
  | .haDigest => true
  | .hbHash => true
  | .b58enc => true
  | .b58dec => true
  | .b58cenc => true
  | .b58cdec => true
  | .derivepub _ _ _ => true
  | .deriveaddr => true
  | .wifenc _ _ _ => true
  | .wifdec _ => false

/-- The three commands that read or write the Hash-A accumulator (R37). -/
def usesAccumulator : Instr → Bool
  | .modinv _ _ => false
  | .padd _ _ _ => false
  | .pdbl _ _ => false
  | .smul _ _ _ => false
  | .oncurve _ => false
  | .keyvalid _ => false
  | .pldg _ => false
  | .haInit => true
  | .haUpdate => true
  | .haDigest => true
  | .hbHash => false
  | .b58enc => false
  | .b58dec => false
  | .b58cenc => false
  | .b58cdec => false
  | .derivepub _ _ _ => false
  | .deriveaddr => false
  | .wifenc _ _ _ => false
  | .wifdec _ => false

/-- `t` is the end, with outcome `Ok`, of a command that began in `s` and wrote the string `b` to `OBUF` from byte 0
and its length to `OLEN`, and nothing else (R13, R42, R72): bytes from `len(b)` up are unchanged. -/
def OutputOnly (s t : State) (b : Bytes) : Prop :=
  t = { s with obuf := t.obuf, olen := BitVec.ofNat 9 b.length, busy := false, done := true } ∧
  t.memRead .obuf b.length = b ∧
  ∀ k, b.length ≤ k → t.bufferByte .obuf k = s.bufferByte .obuf k

/-- `t` is the end, with outcome `Fail` and code `c`, of a command that began in `s` (R236). -/
def FailedWith (s t : State) (c : Nat) : Prop :=
  t = { s with
    busy := false
    done := false
    err := true
    errcode := BitVec.ofNat 8 c
    esticky := s.esticky ||| BitVec.ofNat 32 (2 ^ c) }

/-- The CORE has the next turn of `s`, and `rest` is what is still to come after it: the agenda's head is the CORE
step, or the agenda is empty (log 2). -/
def CoreTurn (s : State) (rest : List Event) : Prop := (s.agenda = [] ∧ rest = []) ∨ s.agenda = .core :: rest

/-- `AFF(x3, y3)` is the third point of the chord through `AFF(x1, y1)` and `AFF(x2, y2)`, reflected: the formulas of
R123 case 5 as congruences modulo `p`, with `lam` the slope. -/
def IsChordSum (x1 y1 x2 y2 x3 y3 : Nat) : Prop :=
  x3 < fieldPrime ∧ y3 < fieldPrime ∧
  ∃ lam : Int,
    lam * ((x2 : Int) - x1) ≡ (y2 : Int) - y1 [ZMOD fieldPrime] ∧
    (x3 : Int) ≡ lam * lam - x1 - x2 [ZMOD fieldPrime] ∧
    (y3 : Int) ≡ lam * ((x1 : Int) - x3) - y1 [ZMOD fieldPrime]

/-- `AFF(x3, y3)` is the third point of the tangent at `AFF(x1, y1)`, reflected: the formulas of R124 case 3 as
congruences modulo `p`, with `lam` the slope. -/
def IsTangentDouble (x1 y1 x3 y3 : Nat) : Prop :=
  x3 < fieldPrime ∧ y3 < fieldPrime ∧
  ∃ lam : Int,
    lam * (2 * (y1 : Int)) ≡ 3 * x1 * x1 + coefficientA [ZMOD fieldPrime] ∧
    (x3 : Int) ≡ lam * lam - x1 - x1 [ZMOD fieldPrime] ∧
    (y3 : Int) ≡ lam * ((x1 : Int) - x3) - y1 [ZMOD fieldPrime]

/-- A stream of `HA.UPDATE` commands, all ending `Ok`, that appends the strings `ds` in order to the message in `s` and
ends in `t`. Before each one the state may change in any way (the HOST loads `IBUF` and `ILEN`, other commands run)
that leaves the accumulator alone and makes the input the next string (R160, R269). -/
def Streams : State → List Bytes → State → Prop
  | s, [], t => t = s
  | s, d :: ds, t =>
    ∃ u v, u.ha = s.ha ∧ u.input = d ∧ exec .haUpdate u = .next v ∧ v.done = true ∧ Streams v ds t

/-- `R` and `Q` are the accumulator and the running point of R126 before each of the first `turns` iterations on `k` and
`P`, and after the last of them; every one of these iterations answers. In each, the running point is doubled, the last
one included, whatever the bit is (D23). -/
def DoubleAndAddRun (k : Scalar) (P : Point) (turns : Nat) (R Q : Nat → Point) : Prop :=
  R 0 = .inf ∧ Q 0 = P ∧
  ∀ i < turns,
    (k.getLsbD i = true → pointAdd (R i) (Q i) = .ok (R (i + 1))) ∧
    (k.getLsbD i = false → R (i + 1) = R i) ∧
    pointDouble (Q i) = .ok (Q (i + 1))

/-- Repeated addition of `P`, from the identity: what scalar multiplication is an algorithm for (R16, R126). -/
def repeatedAddition (P : Point) : Nat → Except CommandError Point
  | 0 => .ok .inf
  | k + 1 =>
    match repeatedAddition P k with
    | .ok R => pointAdd R P
    | .error e => .error e

/-- A point value that is `INF` or a pair of field elements on the curve. -/
def Machine.Point.OfCurve : Point → Prop
  | .inf => True
  | .aff x y => x < fieldPrime ∧ y < fieldPrime ∧ isOnCurve (.aff x y) = true

end Sys2Proof
end

