-- ==== Sys2Proof/Certificates/Slice0/Obligations.lean ====
section
/-! DEFINITION. The statements for the provers. The ends of a command are written out as explicit states, so that
each statement of a result is also the command's frame. -/

open Sys2Proof Sys2Proof.Machine

/-! Encoding. -/

/-- Decoding the encoding of any command gives the command back: no bit of an operand is dropped (R91, R96, R97). -/
def Obligations.DecodeOfEncodeIsTheCommand : Prop := ∀ i : Instr, decode (encode i) = .ok i

/-- A word that decodes is the word of R96 for the command it decodes to: each command has one word (R92, R96, R97). -/
def Obligations.DecodedWordIsTheEncoding : Prop :=
  ∀ (w : Word) (i : Instr), decode w = .ok i →
    w = encode i ∧ w &&& (formatOf i).mask = BitVec.ofNat 32 (opcodeOf i)

/-- R98: a latched word that no row of the opcode map fits fails with `IllegalCommand`, and nothing but `STATUS`,
`ERRCODE` and `ESTICKY` changes. -/
def Obligations.UndecodedWordFailsIllegal : Prop :=
  ∀ (s : State) (rest : List Event), CoreTurn s rest → s.busy = true →
    (∀ r ∈ opcodeMap, s.cmdl &&& r.format.mask ≠ r.op) →
    ∃ t, step s = .next t ∧ FailedWith { s with agenda := rest } t 7

/-- The legal words that TE1 of 95_test_vectors and the examples of R96 write out, all 29, decode to the commands they
stand for. -/
def Obligations.SpecWordsDecode : Prop :=
  decode 0x00000401 = .ok (.modinv 0 1) ∧ decode 0x00000F01 = .ok (.modinv 3 3) ∧
  decode 0x00001202 = .ok (.padd 2 0 1) ∧ decode 0x00003F02 = .ok (.padd 3 3 3) ∧
  decode 0x00000103 = .ok (.pdbl 1 0) ∧ decode 0x00000104 = .ok (.smul 1 0 0) ∧
  decode 0x00003204 = .ok (.smul 2 0 3) ∧ decode 0x00000C05 = .ok (.oncurve 3) ∧
  decode 0x00000806 = .ok (.keyvalid 2) ∧ decode 0x00000007 = .ok (.pldg 0) ∧
  decode 0x00000307 = .ok (.pldg 3) ∧ decode 0x00000010 = .ok .haInit ∧
  decode 0x00000011 = .ok .haUpdate ∧ decode 0x00000012 = .ok .haDigest ∧
  decode 0x00000018 = .ok .hbHash ∧ decode 0x00000020 = .ok .b58enc ∧
  decode 0x00000021 = .ok .b58dec ∧ decode 0x00000022 = .ok .b58cenc ∧
  decode 0x00000023 = .ok .b58cdec ∧ decode 0x00010030 = .ok (.derivepub 0 0 true) ∧
  decode 0x00000930 = .ok (.derivepub 1 2 false) ∧ decode 0x00010F30 = .ok (.derivepub 3 3 true) ∧
  decode 0x00000031 = .ok .deriveaddr ∧ decode 0x00010032 = .ok (.wifenc 0 true false) ∧
  decode 0x00000032 = .ok (.wifenc 0 false false) ∧ decode 0x00030432 = .ok (.wifenc 1 true true) ∧
  decode 0x00020C32 = .ok (.wifenc 3 false true) ∧ decode 0x00000133 = .ok (.wifdec 1) ∧
  decode 0x00000333 = .ok (.wifdec 3)

/-! The step and the schedule. -/

/-- When the CORE has the turn and is busy, and the latched word decodes, the step is `exec` of the decoded command
(R72); the turn is taken from the model's agenda (log 1, log 2). -/
def Obligations.StepRunsTheDecodedCommand : Prop :=
  ∀ (s : State) (rest : List Event) (i : Instr), CoreTurn s rest → s.busy = true → decode s.cmdl = .ok i →
    step s = exec i { s with agenda := rest }

/-- When the CORE has the turn and is not busy, nothing but the model's agenda changes (R72, R260; log 2, log 3). -/
def Obligations.IdleCoreTakesNoStep : Prop :=
  ∀ (s : State) (rest : List Event), CoreTurn s rest → s.busy = false → step s = .next { s with agenda := rest }

/-- R236 with R72: every command ends, not busy, either `Ok` (`DONE` set, error reports as they were) or `Fail` with a
code of R231, and then nothing else changed. -/
def Obligations.CommandEndsOkOrFailsWhole : Prop :=
  ∀ (i : Instr) (s : State), ∃ t, exec i s = .next t ∧ t.busy = false ∧
    ((t.done = true ∧ t.err = s.err ∧ t.errcode = s.errcode ∧ t.esticky = s.esticky) ∨
      ∃ c, 1 ≤ c ∧ c ≤ 10 ∧ FailedWith s t c)

/-! The HOST. -/

/-- R70: a write of any word to `CMD` launches it when `BUSY = 0`, and is ignored when `BUSY = 1`. -/
def Obligations.CmdWriteLaunches : Prop :=
  ∀ (s : State) (rest : List Event) (w : Word), s.agenda = .hostWrite 0x000 w :: rest →
    (s.busy = false →
      step s = .next { s with
        agenda := rest, cmdl := w, busy := true, done := false, err := false, errcode := 0 }) ∧
    (s.busy = true → step s = .next { s with agenda := rest })

/-- While `BUSY = 1` every write is ignored, a read of `STATUS` returns `BUSY = 1`, `DONE = 0`, `ERR = 0` and the
current `HST`, and a read of any other address returns an unspecified word and disturbs nothing of the CORE (R66). That
the word is `Config.busyRead` at a counter of such reads is the model's choice (log 7). -/
def Obligations.BusyCoreAnswersOnlyStatus : Prop :=
  ∀ (s : State) (rest : List Event), s.Sound → s.busy = true →
    (∀ (a : WindowAddress) (w : Word), a.toNat % 4 = 0 → s.agenda = .hostWrite a w :: rest →
      step s = .next { s with agenda := rest }) ∧
    (s.agenda = .hostRead 0x004 :: rest →
      step s = .next { s with agenda := rest, rdata := BitVec.ofNat 32 (1 + 16 * s.ha.st.code) }) ∧
    (∀ a : WindowAddress, a.toNat % 4 = 0 → a ≠ 0x004 → s.agenda = .hostRead a :: rest →
      step s = .next { s with agenda := rest, rdata := Config.busyRead s.draws, draws := s.draws + 1 })

/-- With `BUSY = 0` a read returns the window's word and has no side effect on the CORE, and a write takes effect at
once (R62, R67). -/
def Obligations.HostTransactionsWhenIdle : Prop :=
  ∀ (s : State) (rest : List Event) (a : WindowAddress), s.busy = false → a.toNat % 4 = 0 →
    (s.agenda = .hostRead a :: rest → step s = .next { s with agenda := rest, rdata := s.windowRead a }) ∧
    (∀ w : Word, s.agenda = .hostWrite a w :: rest →
      step s = .next (State.windowWrite { s with agenda := rest } a w))

/-- The words of the address map as a read returns them (R61, with R23 to R29, R31, R35 and R64). -/
def Obligations.WindowReadsFollowTheMap : Prop :=
  ∀ s : State,
    s.windowRead 0x000 = 0 ∧
    s.windowRead 0x004 =
      BitVec.ofNat 32 (s.busy.toNat + 2 * s.done.toNat + 4 * s.err.toNat + 16 * s.ha.st.code) ∧
    s.windowRead 0x008 = s.errcode.zeroExtend 32 ∧
    s.windowRead 0x00C = s.esticky &&& 0x7FE ∧
    s.windowRead 0x010 = s.ilen.zeroExtend 32 ∧
    s.windowRead 0x014 = s.olen.zeroExtend 32 ∧
    s.windowRead 0x018 = BitVec.ofNat 32 (s.flags.t.toNat + 2 * s.flags.c.toNat + 256 * s.flags.ver.toNat) ∧
    (∀ (i : Fin 4) (j : Fin 8),
      s.windowRead (BitVec.ofNat 12 (0x100 + 0x20 * i.val + 4 * j.val)) = (s.S[i]).extractLsb' (32 * j.val) 32 ∧
      s.windowRead (BitVec.ofNat 12 (0x200 + 0x80 * i.val + 4 * j.val)) = (s.PT[i]).x.extractLsb' (32 * j.val) 32 ∧
      s.windowRead (BitVec.ofNat 12 (0x220 + 0x80 * i.val + 4 * j.val)) = (s.PT[i]).y.extractLsb' (32 * j.val) 32 ∧
      s.windowRead (BitVec.ofNat 12 (0x240 + 0x80 * i.val)) = BitVec.ofNat 32 (s.PT[i]).inf.toNat) ∧
    (∀ j : Fin 8,
      s.windowRead (BitVec.ofNat 12 (0x400 + 4 * j.val)) = BitVec.ofNat 32 (fieldPrime / 2 ^ (32 * j.val)) ∧
      s.windowRead (BitVec.ofNat 12 (0x420 + 4 * j.val)) = BitVec.ofNat 32 (groupOrder / 2 ^ (32 * j.val)) ∧
      s.windowRead (BitVec.ofNat 12 (0x440 + 4 * j.val)) = BitVec.ofNat 32 (generatorX / 2 ^ (32 * j.val)) ∧
      s.windowRead (BitVec.ofNat 12 (0x460 + 4 * j.val)) = BitVec.ofNat 32 (generatorY / 2 ^ (32 * j.val)) ∧
      s.windowRead (BitVec.ofNat 12 (0x480 + 4 * j.val)) = BitVec.ofNat 32 (coefficientA / 2 ^ (32 * j.val)) ∧
      s.windowRead (BitVec.ofNat 12 (0x4A0 + 4 * j.val)) = BitVec.ofNat 32 (coefficientB / 2 ^ (32 * j.val))) ∧
    (∀ (m : Fin 256) (lane : Fin 4),
      (s.windowRead (BitVec.ofNat 12 (0x800 + 4 * m.val))).extractLsb' (8 * lane.val) 8 =
        (if 4 * m.val + lane.val < s.sizes.ibuf then s.bufferByte .ibuf (4 * m.val + lane.val) else 0) ∧
      (s.windowRead (BitVec.ofNat 12 (0xC00 + 4 * m.val))).extractLsb' (8 * lane.val) 8 =
        (if 4 * m.val + lane.val < s.sizes.obuf then s.bufferByte .obuf (4 * m.val + lane.val) else 0))

/-- R65: with `BUSY = 0` an unmapped address reads 0 and ignores writes, and the read-only words, the constants and the
`OBUF` window ignore writes. -/
def Obligations.UnmappedAndReadOnlyWords : Prop :=
  ∀ (s : State) (a : WindowAddress) (w : Word), s.busy = false → a.toNat % 4 = 0 →
    (((0x01C ≤ a.toNat ∧ a.toNat < 0x100) ∨ (0x180 ≤ a.toNat ∧ a.toNat < 0x200) ∨
        (0x200 ≤ a.toNat ∧ a.toNat < 0x400 ∧ 0x40 < a.toNat % 0x80) ∨
        (0x4C0 ≤ a.toNat ∧ a.toNat < 0x800) ∨
        (0x800 + s.sizes.ibuf ≤ a.toNat ∧ a.toNat < 0xC00) ∨ 0xC00 + s.sizes.obuf ≤ a.toNat) →
      s.windowRead a = 0 ∧ s.hostWrite a w = s) ∧
    ((a = 0x004 ∨ a = 0x008 ∨ a = 0x014 ∨ a = 0x018 ∨ (0x400 ≤ a.toNat ∧ a.toNat < 0x4C0) ∨ 0xC00 ≤ a.toNat) →
      s.hostWrite a w = s)

/-- With `BUSY = 0` a writable word reads back what was written, cut to the bits it has (R21, R27, R28, R35); an `IBUF`
word reads back its byte lanes below `IBUFSZ`, and 0 in the others (R64). -/
def Obligations.WritableWordsReadBack : Prop :=
  ∀ (s : State) (w : Word), s.busy = false →
    (∀ (i : Fin 4) (j : Fin 8),
      (s.hostWrite (BitVec.ofNat 12 (0x100 + 0x20 * i.val + 4 * j.val)) w).windowRead
        (BitVec.ofNat 12 (0x100 + 0x20 * i.val + 4 * j.val)) = w ∧
      (s.hostWrite (BitVec.ofNat 12 (0x200 + 0x80 * i.val + 4 * j.val)) w).windowRead
        (BitVec.ofNat 12 (0x200 + 0x80 * i.val + 4 * j.val)) = w ∧
      (s.hostWrite (BitVec.ofNat 12 (0x220 + 0x80 * i.val + 4 * j.val)) w).windowRead
        (BitVec.ofNat 12 (0x220 + 0x80 * i.val + 4 * j.val)) = w ∧
      (s.hostWrite (BitVec.ofNat 12 (0x240 + 0x80 * i.val)) w).windowRead
        (BitVec.ofNat 12 (0x240 + 0x80 * i.val)) = w &&& 1) ∧
    (s.hostWrite 0x010 w).windowRead 0x010 = w &&& 0x1FF ∧
    (s.hostWrite 0x00C w).windowRead 0x00C = s.windowRead 0x00C &&& ~~~w ∧
    (∀ m : Nat, 4 * m + 3 < s.sizes.ibuf → m < 256 →
      (s.hostWrite (BitVec.ofNat 12 (0x800 + 4 * m)) w).windowRead (BitVec.ofNat 12 (0x800 + 4 * m)) = w) ∧
    (∀ (m : Fin 256) (lane : Fin 4),
      ((s.hostWrite (BitVec.ofNat 12 (0x800 + 4 * m.val)) w).windowRead
        (BitVec.ofNat 12 (0x800 + 4 * m.val))).extractLsb' (8 * lane.val) 8 =
          if 4 * m.val + lane.val < s.sizes.ibuf then w.extractLsb' (8 * lane.val) 8 else 0)

/-- A write to any word but `CMD` changes what is read at no other word (R61, R67). -/
def Obligations.WriteTouchesOnlyItsWord : Prop :=
  ∀ (s : State) (a b : WindowAddress) (w : Word), a.toNat % 4 = 0 → b.toNat % 4 = 0 → a ≠ 0x000 → b ≠ a →
    (s.hostWrite a w).windowRead b = s.windowRead b

/-- A transaction of 8 or 16 bits, or at an address that is not a multiple of 4, is refused by name, and every other one
answers (R63). That a transaction that is both is refused for its width is the model's choice (log 11). -/
def Obligations.OnlyAlignedWordTransactionsAreLegal : Prop :=
  ∀ (s : State) (rest : List Event) (m : HostMove), s.agenda = .host m :: rest →
    (m.width ≠ .bits32 → step s = .refused .narrowTransaction) ∧
    (m.width = .bits32 → m.address.toNat % 4 ≠ 0 → step s = .refused .misalignedTransaction) ∧
    (m.width = .bits32 → m.address.toNat % 4 = 0 → ∃ t, step s = .next t)

/-! Reset and the invariant. -/

/-- The values the reset state has, where the spec gives them (R45). That the buffer bytes, which it leaves unspecified,
are the free bytes of `Config.bufferAtReset` is the model's choice (log 6). -/
def Obligations.ResetStateHoldsResetValues : Prop :=
  (∀ i : Fin 4, State.reset.S[i] = 0 ∧ State.reset.PT[i] = ⟨true, 0, 0⟩) ∧
  State.reset.flags = ⟨false, false, 0⟩ ∧ State.reset.statusWord = 0 ∧ State.reset.ha.st = .idle ∧
  State.reset.errcode = 0 ∧ State.reset.esticky = 0 ∧ State.reset.ilen = 0 ∧ State.reset.olen = 0 ∧
  ∀ (b : Config.Buffer) (k : Nat), State.reset.bufferByte b k = Config.bufferAtReset b 0 k

/-- The reset event gives the reset state at any time, also while a command runs, and the CORE then takes no step (R260).
The model's choices: every buffer byte is a free byte of the new epoch (log 6), the sizes stay (log 21), and a turn
without a step is a step that changes only the agenda (log 2, log 3). -/
def Obligations.ResetEventGivesResetState : Prop :=
  ∀ (s : State) (rest : List Event), s.agenda = .reset :: rest →
    ∃ t, step s = .next t ∧
      (∀ i : Fin 4, t.S[i] = 0 ∧ t.PT[i] = ⟨true, 0, 0⟩) ∧
      t.flags = ⟨false, false, 0⟩ ∧ t.busy = false ∧ t.done = false ∧ t.err = false ∧ t.ha.st = .idle ∧
      t.errcode = 0 ∧ t.esticky = 0 ∧ t.ilen = 0 ∧ t.olen = 0 ∧ t.sizes = s.sizes ∧
      (∀ (b : Config.Buffer) (k : Nat), t.bufferByte b k = Config.bufferAtReset b (s.epoch + 1) k) ∧
      t.agenda = rest ∧ ∀ rest', CoreTurn t rest' → step t = .next { t with agenda := rest' }

/-- The reset state is sound (the model's invariant of Safety). -/
def Obligations.ResetIsSound : Prop := State.reset.Sound

/-- Every step keeps the invariant: legal sizes, at most one of `BUSY`, `DONE`, `ERR` (R25), `ERRCODE` 0 unless the last
command failed (R26), no reserved bit in `ESTICKY` (R27), `OLEN <= OBUFSZ` (R29), buffers in canonical form and within
their sizes, fewer than 64 pending bytes, and a bit counter that agrees with them (R37). -/
def Obligations.StepKeepsSound : Prop := ∀ s t : State, s.Sound → step s = .next t → t.Sound

/-- A machine whose HOST makes only legal transactions (R63) never stops, for any number of steps. -/
def Obligations.LegalAgendaNeverStops : Prop :=
  ∀ (n : Nat) (s : State), s.LegalAgenda → ∃ t : State, Sys2Proof.core.run n s = .next t ∧ t.LegalAgenda

/-! Frames of all commands. -/

/-- No command writes `IBUF`, `ILEN` or the latch (R28, R41, R69), the parameters, or the model's own fields. -/
def Obligations.CommandsNeverWriteInputs : Prop :=
  ∀ (i : Instr) (s t : State), exec i s = .next t →
    t.ibuf = s.ibuf ∧ (∀ k, t.bufferByte .ibuf k = s.bufferByte .ibuf k) ∧ t.ilen = s.ilen ∧ t.cmdl = s.cmdl ∧
    t.sizes = s.sizes ∧ t.agenda = s.agenda ∧ t.rdata = s.rdata ∧ t.epoch = s.epoch ∧ t.draws = s.draws

/-- Only MODINV and WIFDEC write a scalar register, and only the one their `rd` names (R21). -/
def Obligations.ScalarRegistersFrame : Prop :=
  ∀ (i : Instr) (s t : State) (k : Fin 4), exec i s = .next t → t.S[k] ≠ s.S[k] →
    (∃ ra, i = .modinv k ra) ∨ i = .wifdec k

/-- Only PADD, PDBL, SMUL, PLDG and DERIVEPUB write a point register, and only the one their `rd` names (R35). -/
def Obligations.PointRegistersFrame : Prop :=
  ∀ (i : Instr) (s t : State) (k : Fin 4), exec i s = .next t → t.PT[k] ≠ s.PT[k] →
    (∃ ra rb, i = .padd k ra rb) ∨ (∃ ra, i = .pdbl k ra) ∨ (∃ ra rb, i = .smul k ra rb) ∨ i = .pldg k ∨
      ∃ ra c, i = .derivepub k ra c

/-- Only ONCURVE and KEYVALID write `FLAGS.T`, only WIFDEC writes `FLAGS.C` and `FLAGS.VER`, and only on `Ok` (R23). -/
def Obligations.FlagsFrame : Prop :=
  ∀ (i : Instr) (s t : State), exec i s = .next t →
    (t.flags.t ≠ s.flags.t → t.done = true ∧ ((∃ ra, i = .oncurve ra) ∨ ∃ ra, i = .keyvalid ra)) ∧
    (t.flags.c ≠ s.flags.c ∨ t.flags.ver ≠ s.flags.ver → t.done = true ∧ ∃ rd, i = .wifdec rd)

/-- Only HA.INIT, HA.UPDATE and HA.DIGEST write the Hash-A accumulator, and only on `Ok` (R37, R236). -/
def Obligations.AccumulatorFrame : Prop :=
  ∀ (i : Instr) (s t : State), exec i s = .next t → t.ha ≠ s.ha → t.done = true ∧ usesAccumulator i = true

/-- A command without buffer output, and a command that fails, leaves `OBUF` and `OLEN` alone; a command with buffer
output that ends `Ok` leaves the bytes from `OLEN` up alone (R42, R271). -/
def Obligations.OutputBufferFrame : Prop :=
  ∀ (i : Instr) (s t : State), s.sizes.Legal → exec i s = .next t →
    (producesOutput i = false ∨ t.done = false →
      t.olen = s.olen ∧ ∀ k, t.bufferByte .obuf k = s.bufferByte .obuf k) ∧
    (producesOutput i = true → t.done = true →
      ∀ k, t.olen.toNat ≤ k → t.bufferByte .obuf k = s.bufferByte .obuf k)

/-! Noninterference. -/

/-- No command reads an `IBUF` byte at index `ILEN` or above: two input buffers that agree below `ILEN` give the same
end, but for the buffer itself (R41). -/
def Obligations.BytesBeyondIlenAreNeverRead : Prop :=
  ∀ (i : Instr) (s t : State) (m : Memory),
    (∀ k, k < s.ilen.toNat → State.bufferByte { s with ibuf := m } .ibuf k = s.bufferByte .ibuf k) →
    exec i s = .next t → exec i { s with ibuf := m } = .next { t with ibuf := m }

/-- The commands other than HA.INIT, HA.UPDATE and HA.DIGEST neither read nor write the accumulator (R37, R270). -/
def Obligations.AccumulatorIsIgnoredByOthers : Prop :=
  ∀ (i : Instr) (s t : State) (a : HashAccumulator), usesAccumulator i = false →
    exec i s = .next t → exec i { s with ha := a } = .next { t with ha := a }

/-- No command reads `OBUF`, `OLEN`, `FLAGS` or `ESTICKY`: what they hold changes no register, no outcome and no error, no
byte of the output and not its length, no flag that the command writes, and not the sticky bit that it sets (R23, R27,
R69). -/
def Obligations.CommandsNeverReadReports : Prop :=
  ∀ (i : Instr) (s t t' : State) (m : Memory) (l : BitVec 9) (f : Flags) (e : Word),
    exec i s = .next t → exec i { s with obuf := m, olen := l, flags := f, esticky := e } = .next t' →
    t'.S = t.S ∧ t'.PT = t.PT ∧ t'.ha = t.ha ∧ t'.busy = t.busy ∧ t'.done = t.done ∧ t'.err = t.err ∧
      t'.errcode = t.errcode ∧
      (t.done = true → producesOutput i = true →
        t'.olen = t.olen ∧ t'.memRead .obuf t'.olen.toNat = t.memRead .obuf t.olen.toNat) ∧
      (t.done = true → (∃ ra, i = .oncurve ra ∨ i = .keyvalid ra) → t'.flags.t = t.flags.t) ∧
      (t.done = true → (∃ rd, i = .wifdec rd) → t'.flags.c = t.flags.c ∧ t'.flags.ver = t.flags.ver) ∧
      (t.done = true → t.esticky = s.esticky ∧ t'.esticky = e) ∧
      (t.done = false →
        t.esticky = s.esticky ||| BitVec.ofNat 32 (2 ^ t.errcode.toNat) ∧
        t'.esticky = e ||| BitVec.ofNat 32 (2 ^ t.errcode.toNat))

/-! The curve engine. -/

/-- MODINV on an operand that is not a multiple of `p` writes the unique inverse in `[1, p-1]` (R121, R122). -/
def Obligations.ModinvWritesTheInverse : Prop :=
  ∀ (rd ra : RegIndex) (s : State), (s.S[ra]).toNat % fieldPrime ≠ 0 →
    ∃ r : Nat, 1 ≤ r ∧ r ≤ fieldPrime - 1 ∧ ((s.S[ra]).toNat * r) % fieldPrime = 1 ∧
      (∀ r' : Nat, 1 ≤ r' → r' ≤ fieldPrime - 1 → ((s.S[ra]).toNat * r') % fieldPrime = 1 → r' = r) ∧
      exec (.modinv rd ra) s = .next { s with S := s.S.set rd (BitVec.ofNat 256 r), busy := false, done := true }

/-- PADD on two point values: the identity cases, equal points doubled by the tangent formulas, opposite points giving
`INF`, and the chord formulas for different `x` (R123, R125). -/
def Obligations.PaddWritesTheSum : Prop :=
  ∀ (rd ra rb : RegIndex) (s : State) (P Q : Point), s.getpt ra = .ok P → s.getpt rb = .ok Q →
    (P = .inf → exec (.padd rd ra rb) s =
      .next { s with PT := s.PT.set rd Q.register, busy := false, done := true }) ∧
    (Q = .inf → exec (.padd rd ra rb) s =
      .next { s with PT := s.PT.set rd P.register, busy := false, done := true }) ∧
    (∀ x1 y1 x2 y2 : Nat, P = .aff x1 y1 → Q = .aff x2 y2 →
      (x1 = x2 → y1 = y2 → y1 ≠ 0 → ∃ x3 y3, IsTangentDouble x1 y1 x3 y3 ∧ exec (.padd rd ra rb) s =
        .next { s with
          PT := s.PT.set rd ⟨false, BitVec.ofNat 256 x3, BitVec.ofNat 256 y3⟩, busy := false, done := true }) ∧
      (x1 = x2 → y1 ≠ y2 → (y1 + y2) % fieldPrime = 0 → exec (.padd rd ra rb) s =
        .next { s with PT := s.PT.set rd ⟨true, 0, 0⟩, busy := false, done := true }) ∧
      (x1 ≠ x2 → ∃ x3 y3, IsChordSum x1 y1 x2 y2 x3 y3 ∧ exec (.padd rd ra rb) s =
        .next { s with
          PT := s.PT.set rd ⟨false, BitVec.ofNat 256 x3, BitVec.ofNat 256 y3⟩, busy := false, done := true }))

/-- PDBL: `INF` doubles to `INF`, and a pair with `y ≠ 0` doubles by the tangent formulas (R124, R127). -/
def Obligations.PdblWritesTheDouble : Prop :=
  ∀ (rd ra : RegIndex) (s : State),
    (s.getpt ra = .ok .inf → exec (.pdbl rd ra) s =
      .next { s with PT := s.PT.set rd ⟨true, 0, 0⟩, busy := false, done := true }) ∧
    (∀ x1 y1 : Nat, s.getpt ra = .ok (.aff x1 y1) → y1 ≠ 0 →
      ∃ x3 y3, IsTangentDouble x1 y1 x3 y3 ∧ exec (.pdbl rd ra) s =
        .next { s with
          PT := s.PT.set rd ⟨false, BitVec.ofNat 256 x3, BitVec.ofNat 256 y3⟩, busy := false, done := true })

/-- Where the curve commands fail with `DivisionByZero` (code 3): MODINV of a multiple of `p`, doubling a pair with
`y = 0` (by PDBL, by PADD of equal points, by SMUL with any scalar), PADD of pairs with equal `x` and unrelated `y`, and
SMUL whenever any step of the scalar multiplication fails (R122 to R128). -/
def Obligations.ArithmeticFailures : Prop :=
  ∀ (rd ra rb : RegIndex) (s : State),
    ((s.S[ra]).toNat % fieldPrime = 0 → ∃ t, exec (.modinv rd ra) s = .next t ∧ FailedWith s t 3) ∧
    (∀ x1 : Nat, s.getpt ra = .ok (.aff x1 0) →
      (∃ t, exec (.pdbl rd ra) s = .next t ∧ FailedWith s t 3) ∧
      (s.getpt rb = .ok (.aff x1 0) → ∃ t, exec (.padd rd ra rb) s = .next t ∧ FailedWith s t 3) ∧
      (∃ t, exec (.smul rd ra rb) s = .next t ∧ FailedWith s t 3)) ∧
    (∀ x1 y1 y2 : Nat, s.getpt ra = .ok (.aff x1 y1) → s.getpt rb = .ok (.aff x1 y2) → y1 ≠ y2 →
      (y1 + y2) % fieldPrime ≠ 0 → ∃ t, exec (.padd rd ra rb) s = .next t ∧ FailedWith s t 3) ∧
    (∀ (P : Point) (e : CommandError), s.getpt ra = .ok P → scalarMultiply (s.S[rb]) P = .error e →
      ∃ t, exec (.smul rd ra rb) s = .next t ∧ FailedWith s t 3)

/-- A source point register with `inf = 0` and a coordinate not below `p` fails with `OperandRange` (code 8) before any
other work, `ra` before `rb` (R120, R233). -/
def Obligations.OutOfRangePointFails : Prop :=
  ∀ (rd ra rb : RegIndex) (s : State), (s.PT[ra]).inf = false →
    (fieldPrime ≤ (s.PT[ra]).x.toNat ∨ fieldPrime ≤ (s.PT[ra]).y.toNat) →
    (∃ t, exec (.padd rd ra rb) s = .next t ∧ FailedWith s t 8) ∧
    (∃ t, exec (.padd rd rb ra) s = .next t ∧ FailedWith s t 8) ∧
    (∃ t, exec (.pdbl rd ra) s = .next t ∧ FailedWith s t 8) ∧
    (∃ t, exec (.smul rd ra rb) s = .next t ∧ FailedWith s t 8) ∧
    (∃ t, exec (.oncurve ra) s = .next t ∧ FailedWith s t 8)

/-- How a point register holds a point value, read by `getpt` (R35, R120) and written (R35). -/
def Obligations.PointRegisterHoldsPoint : Prop :=
  ∀ (s : State) (i : RegIndex),
    ((s.PT[i]).inf = true → s.getpt i = .ok .inf) ∧
    ((s.PT[i]).inf = false → (s.PT[i]).x.toNat < fieldPrime → (s.PT[i]).y.toNat < fieldPrime →
      s.getpt i = .ok (.aff (s.PT[i]).x.toNat (s.PT[i]).y.toNat)) ∧
    ((s.PT[i]).inf = false → (fieldPrime ≤ (s.PT[i]).x.toNat ∨ fieldPrime ≤ (s.PT[i]).y.toNat) →
      s.getpt i = .error .operandRange) ∧
    Point.register .inf = ⟨true, 0, 0⟩ ∧
    ∀ x y : Nat, x < fieldPrime → y < fieldPrime →
      (Point.register (.aff x y)).value = .ok (.aff x y)

/-- SMUL on any base, on the curve or off it, does the 256 iterations of R126: when all answer, it writes the accumulator
after the last; when the addition or the doubling of one of them fails, the doubling of the last included, SMUL fails
with `DivisionByZero` (code 3) (R126, R128). -/
def Obligations.SmulWritesDoubleAndAdd : Prop :=
  ∀ (rd ra rb : RegIndex) (s : State) (P : Point), s.getpt ra = .ok P →
    (∀ R : Point, scalarMultiply (s.S[rb]) P = .ok R →
      exec (.smul rd ra rb) s = .next { s with PT := s.PT.set rd R.register, busy := false, done := true }) ∧
    (∀ R Q : Nat → Point, DoubleAndAddRun (s.S[rb]) P 256 R Q →
      exec (.smul rd ra rb) s = .next { s with PT := s.PT.set rd (R 256).register, busy := false, done := true }) ∧
    (∀ (R Q : Nat → Point) (i : Nat) (e : CommandError), i < 256 → DoubleAndAddRun (s.S[rb]) P i R Q →
      ((s.S[rb]).getLsbD i = true ∧ pointAdd (R i) (Q i) = .error e) ∨ pointDouble (Q i) = .error e →
      ∃ t, exec (.smul rd ra rb) s = .next t ∧ FailedWith s t 3)

/-- On the curve addition and doubling never fail and stay on the curve (R36, R126). -/
def Obligations.CurveIsClosed : Prop :=
  ∀ P Q : Point, P.OfCurve → Q.OfCurve →
    (∃ R, pointAdd P Q = .ok R ∧ R.OfCurve) ∧ ∃ R, pointDouble P = .ok R ∧ R.OfCurve

/-- SMUL with a base on the curve (or `INF`) never fails, for any scalar, and writes a point of the curve or `INF`
(R126, R128). -/
def Obligations.SmulOnTheCurveCompletes : Prop :=
  ∀ (rd ra rb : RegIndex) (s : State) (P : Point), s.getpt ra = .ok P → P.OfCurve →
    ∃ R : Point, R.OfCurve ∧
      exec (.smul rd ra rb) s = .next { s with PT := s.PT.set rd R.register, busy := false, done := true }

/-- On the curve double-and-add is repeated addition: `scalarMultiply(k, P)` is `P` added `k` times to the identity
(R16, R126). -/
def Obligations.SmulIsRepeatedAddition : Prop :=
  ∀ (k : Scalar) (P : Point), P.OfCurve → scalarMultiply k P = repeatedAddition P k.toNat

/-- Off the curve too: when no iteration fails, `0·P` is `INF`, `1·P` is `P` and `2·P` is the double of `P`; and `k·INF`
is `INF` for every `k` (R126, R128). -/
def Obligations.SmulOfSmallScalars : Prop :=
  (∀ P R : Point,
    (scalarMultiply 0 P = .ok R → R = .inf) ∧
    (scalarMultiply 1 P = .ok R → R = P) ∧
    (scalarMultiply 2 P = .ok R → pointDouble P = .ok R)) ∧
  ∀ k : Scalar, scalarMultiply k .inf = .ok .inf

/-- R129 and R130: ONCURVE writes `FLAGS.T` with the truth of the curve equation, false for `INF`, and nothing else;
it fails with `OperandRange` exactly as `getpt` does. -/
def Obligations.OncurveWritesTheEquation : Prop :=
  ∀ (ra : RegIndex) (s : State),
    encode (.oncurve ra) = BitVec.ofNat 32 (0x05 + 1024 * ra.val) ∧
    (s.getpt ra = .ok .inf → exec (.oncurve ra) s =
      .next { s with flags := { s.flags with t := false }, busy := false, done := true }) ∧
    (∀ x y : Nat, s.getpt ra = .ok (.aff x y) → exec (.oncurve ra) s =
      .next { s with
        flags := { s.flags with
          t := decide ((y * y) % fieldPrime = (x * x * x + coefficientA * x + coefficientB) % fieldPrime) }
        busy := false, done := true }) ∧
    (∀ e, s.getpt ra = .error e → ∃ t, exec (.oncurve ra) s = .next t ∧ FailedWith s t 8)

/-- R131 and R132: KEYVALID writes `FLAGS.T` with `1 <= k` and `k <= n - 1`, and nothing else, and never fails. -/
def Obligations.KeyvalidWritesTheRange : Prop :=
  ∀ (ra : RegIndex) (s : State),
    encode (.keyvalid ra) = BitVec.ofNat 32 (0x06 + 1024 * ra.val) ∧
    exec (.keyvalid ra) s =
      .next { s with
        flags := { s.flags with t := decide (1 ≤ (s.S[ra]).toNat ∧ (s.S[ra]).toNat ≤ groupOrder - 1) }
        busy := false, done := true }

/-- PLDG writes the generator, and nothing else, and never fails (R133); the generator is on the curve (R30, and the
example of R130). -/
def Obligations.PldgLoadsTheGenerator : Prop :=
  (∀ (rd : RegIndex) (s : State),
    encode (.pldg rd) = BitVec.ofNat 32 (0x07 + 256 * rd.val) ∧
    exec (.pldg rd) s =
      .next { s with
        PT := s.PT.set rd ⟨false, BitVec.ofNat 256 generatorX, BitVec.ofNat 256 generatorY⟩
        busy := false, done := true }) ∧
  Point.OfCurve (.aff generatorX generatorY)

/-! Hash-A. -/

/-- R157: HA.INIT makes a fresh accumulator in every state, and changes nothing else. -/
def Obligations.HaInitMakesFresh : Prop :=
  ∀ s : State,
    encode .haInit = 0x10 ∧
    exec .haInit s =
      .next { s with ha := { st := .active, h := hashAInitial, buf := [], bits := 0 }, busy := false, done := true }

/-- HA.UPDATE on an active accumulator with `ILEN <= IBUFSZ` counts the bits, compresses every full block of the pending
bytes and the input, and keeps the remainder (R158). -/
def Obligations.HaUpdateAppends : Prop :=
  ∀ s : State, s.ha.st = .active → s.ilen.toNat ≤ s.sizes.ibuf →
    exec .haUpdate s =
      .next { s with
        ha :=
          { st := .active
            h := (fullBlocks (s.ha.buf ++ s.input)).foldl compressA s.ha.h
            buf := (s.ha.buf ++ s.input).drop (64 * ((s.ha.buf.length + s.ilen.toNat) / 64))
            bits := s.ha.bits + BitVec.ofNat 64 (8 * s.ilen.toNat) }
        busy := false, done := true }

/-- HA.DIGEST on an active accumulator pads, compresses, writes the eight words as 32 big-endian bytes, and leaves the
accumulator final with its bit counter unchanged (R159). -/
def Obligations.HaDigestWritesTheDigest : Prop :=
  ∀ s : State, s.sizes.Legal → s.ha.st = .active →
    ∃ t, exec .haDigest s = .next t ∧
      OutputOnly { s with ha := { st := .final, h := s.ha.finalWords, buf := [], bits := s.ha.bits } } t
        s.ha.finalWords.digest ∧
      s.ha.finalWords = (fullBlocks (padA s.ha.buf s.ha.bits.toNat)).foldl compressA s.ha.h ∧
      s.ha.finalWords.digest.length = 32

/-- R235: HA.UPDATE and HA.DIGEST fail with `HashSequence` (code 10) when the accumulator is not active, whatever `ILEN`
is (R237). -/
def Obligations.HashSequenceErrors : Prop :=
  ∀ s : State, s.ha.st ≠ .active →
    (∃ t, exec .haUpdate s = .next t ∧ FailedWith s t 10) ∧ ∃ t, exec .haDigest s = .next t ∧ FailedWith s t 10

/-- Streaming: HA.INIT, any number of HA.UPDATEs with other commands and HOST writes between them, and HA.DIGEST leave
`HashA` of the whole message in `OBUF[0..31]` (from R156 to R160 and R269). For a message of `2^61` bytes or more, where
R156 defines no `HashA`, the length modulo `2^64` is the model's choice (log 23). -/
def Obligations.StreamingEqualsHashA : Prop :=
  ∀ (s₀ s₁ s₂ u t : State) (ds : List Bytes), exec .haInit s₀ = .next s₁ → Streams s₁ ds s₂ → u.ha = s₂.ha →
    exec .haDigest u = .next t → t.done = true → t.memRead .obuf 32 = hashA ds.flatten

/-! Hash-B. -/

/-- HB.HASH with `ILEN <= IBUFSZ` writes the 20 bytes of `HashB` of the input, and nothing else (R178, R179). -/
def Obligations.HbHashWritesTheDigest : Prop :=
  ∀ s : State, s.sizes.Legal → s.ilen.toNat ≤ s.sizes.ibuf →
    ∃ t, exec .hbHash s = .next t ∧ OutputOnly s t (hashB s.input) ∧ (hashB s.input).length = 20

/-- The digests of the empty message and of "abc" (R156, R159, R178). -/
def Obligations.KnownDigests : Prop :=
  hashA [] = be 0xe3b0c44298fc1c149afbf4c8996fb92427ae41e4649b934ca495991b7852b855 32 ∧
  hashA [0x61, 0x62, 0x63] = be 0xba7816bf8f01cfea414140de5dae2223b00361a396177a9cb410ff61f20015ad 32 ∧
  hashB [] = be 0x9c1185a5c5e9fc54612808977ee8f548b2258d31 20 ∧
  hashB [0x61, 0x62, 0x63] = be 0x8eb208f7e05d987a9b044a8e98c6b087f15a0bfc 20

/-- Every command that reads the input buffer fails with `OperandRange` (code 8) when `ILEN > IBUFSZ`; HA.UPDATE when its
accumulator is active (R233, R237). -/
def Obligations.InputBeyondBufferFails : Prop :=
  ∀ (s : State) (rd : RegIndex), s.sizes.ibuf < s.ilen.toNat →
    (∀ i ∈ [Instr.hbHash, .b58enc, .b58dec, .b58cenc, .b58cdec, .deriveaddr, .wifdec rd],
      ∃ t, exec i s = .next t ∧ FailedWith s t 8) ∧
    (s.ha.st = .active → ∃ t, exec .haUpdate s = .next t ∧ FailedWith s t 8)

/-! Base58 and Base58Check. -/

/-- Decoding the encoding of any byte string gives it back (R196). -/
def Obligations.Base58DecodesItsEncoding : Prop := ∀ b : Bytes, b58decode (b58encode b) = .ok b

/-- Encoding the decoding of any text over the alphabet gives it back (R196). -/
def Obligations.Base58EncodesItsDecoding : Prop :=
  ∀ text : Bytes, (∀ ch ∈ text, ch ∈ alphabet) → ∃ b, b58decode text = .ok b ∧ b58encode b = text

/-- B58ENC and B58CENC write the text of the input, respectively of the input and its checksum, when it fits in `OBUF`,
and fail with `BufferOverflow` (code 9) when it does not (R193, R197, R234). -/
def Obligations.EncodersWriteTheirText : Prop :=
  ∀ s : State, s.ilen.toNat ≤ s.sizes.ibuf →
    ((b58encode s.input).length ≤ s.sizes.obuf → ∃ t, exec .b58enc s = .next t ∧ OutputOnly s t (b58encode s.input)) ∧
    (s.sizes.obuf < (b58encode s.input).length → ∃ t, exec .b58enc s = .next t ∧ FailedWith s t 9) ∧
    (∀ text, text = b58encode (s.input ++ (hashA (hashA s.input)).take 4) →
      (text.length ≤ s.sizes.obuf → ∃ t, exec .b58cenc s = .next t ∧ OutputOnly s t text) ∧
      (s.sizes.obuf < text.length → ∃ t, exec .b58cenc s = .next t ∧ FailedWith s t 9))

/-- B58DEC and B58CDEC: a character outside the alphabet fails with code 4; else B58DEC writes the decoded bytes, and
B58CDEC fails with code 6 on fewer than four bytes, with code 5 on a wrong checksum, and otherwise writes the payload;
both fail with `BufferOverflow` (code 9) when what they would write is longer than `OBUFSZ`, which cannot be when
`IBUFSZ <= OBUFSZ` (R194, R198, R234). -/
def Obligations.DecodersWriteTheirBytes : Prop :=
  ∀ s : State, s.ilen.toNat ≤ s.sizes.ibuf →
    ((∃ ch ∈ s.input, ch ∉ alphabet) →
      (∃ t, exec .b58dec s = .next t ∧ FailedWith s t 4) ∧ ∃ t, exec .b58cdec s = .next t ∧ FailedWith s t 4) ∧
    ((∀ ch ∈ s.input, ch ∈ alphabet) →
      ∃ raw, b58decode s.input = .ok raw ∧
        (s.sizes.ibuf ≤ s.sizes.obuf → raw.length ≤ s.sizes.obuf) ∧
        (raw.length ≤ s.sizes.obuf → ∃ t, exec .b58dec s = .next t ∧ OutputOnly s t raw) ∧
        (s.sizes.obuf < raw.length → ∃ t, exec .b58dec s = .next t ∧ FailedWith s t 9) ∧
        (raw.length < 4 → ∃ t, exec .b58cdec s = .next t ∧ FailedWith s t 6) ∧
        (4 ≤ raw.length → ∀ payload ck, raw = payload ++ ck → ck.length = 4 →
          ((hashA (hashA payload)).take 4 ≠ ck → ∃ t, exec .b58cdec s = .next t ∧ FailedWith s t 5) ∧
          ((hashA (hashA payload)).take 4 = ck →
            (payload.length ≤ s.sizes.obuf → ∃ t, exec .b58cdec s = .next t ∧ OutputOnly s t payload) ∧
            (s.sizes.obuf < payload.length → ∃ t, exec .b58cdec s = .next t ∧ FailedWith s t 9))))

/-! The derivation pipeline. -/

/-- DERIVEPUB of a valid key never fails: it writes the point `k·G`, which is on the curve and not `INF`, and its
serialisation; of an invalid key it fails with `InvalidPrivateKey` (code 1) (R211, R212). -/
def Obligations.DerivepubWritesThePublicKey : Prop :=
  ∀ (rd ra : RegIndex) (c : Bool) (s : State), s.sizes.Legal →
    ((s.S[ra]).toNat = 0 ∨ groupOrder ≤ (s.S[ra]).toNat →
      ∃ t, exec (.derivepub rd ra c) s = .next t ∧ FailedWith s t 1) ∧
    (1 ≤ (s.S[ra]).toNat → (s.S[ra]).toNat < groupOrder →
      ∃ x y t, scalarMultiply (s.S[ra]) (.aff generatorX generatorY) = .ok (.aff x y) ∧ Point.OfCurve (.aff x y) ∧
        exec (.derivepub rd ra c) s = .next t ∧
        OutputOnly { s with PT := s.PT.set rd ⟨false, BitVec.ofNat 256 x, BitVec.ofNat 256 y⟩ } t
          (if c then (if y % 2 = 0 then 0x02 else 0x03) :: be x 32 else 0x04 :: (be x 32 ++ be y 32)))

/-- DERIVEADDR with `ILEN <= IBUFSZ` never fails: it writes the Base58Check text of `0x00` and the hash160 of the input,
at most 34 characters, the first a `'1'` (R213). -/
def Obligations.DeriveaddrWritesTheAddress : Prop :=
  ∀ s : State, s.sizes.Legal → s.ilen.toNat ≤ s.sizes.ibuf →
    ∀ payload text, payload = 0x00 :: hashB (hashA s.input) →
      text = b58encode (payload ++ (hashA (hashA payload)).take 4) →
      (∃ t, exec .deriveaddr s = .next t ∧ OutputOnly s t text) ∧ text.length ≤ 34 ∧ text.head? = some 0x31

/-- WIFENC never fails, for any 256-bit key: it writes the Base58Check text of the version byte, the 32 big-endian key
bytes and the marker, at most 52 characters (R214). -/
def Obligations.WifencWritesTheText : Prop :=
  ∀ (ra : RegIndex) (c t : Bool) (s : State), s.sizes.Legal →
    ∀ payload text, payload = (if t then 0xEF else 0x80) :: (be (s.S[ra]).toNat 32 ++ if c then [0x01] else []) →
      text = b58encode (payload ++ (hashA (hashA payload)).take 4) →
      (∃ u, exec (.wifenc ra c t) s = .next u ∧ OutputOnly s u text) ∧ text.length ≤ 52

/-- WIFDEC with `ILEN <= IBUFSZ`, in the order it checks: a character outside the alphabet fails with code 4, fewer than
five bytes with code 6, a wrong checksum with code 5, a key that is not 32 bytes after the optional strip with code 6;
otherwise it writes the key, the compression flag and the version byte, and nothing else (R215). -/
def Obligations.WifdecReadsTheKey : Prop :=
  ∀ (rd : RegIndex) (s : State), s.ilen.toNat ≤ s.sizes.ibuf →
    ((∃ ch ∈ s.input, ch ∉ alphabet) → ∃ t, exec (.wifdec rd) s = .next t ∧ FailedWith s t 4) ∧
    (∀ raw, b58decode s.input = .ok raw → raw.length < 5 →
      ∃ t, exec (.wifdec rd) s = .next t ∧ FailedWith s t 6) ∧
    (∀ version key ck, b58decode s.input = .ok (version :: (key ++ ck)) → ck.length = 4 →
      ((hashA (hashA (version :: key))).take 4 ≠ ck → ∃ t, exec (.wifdec rd) s = .next t ∧ FailedWith s t 5) ∧
      ((hashA (hashA (version :: key))).take 4 = ck →
        (key.length = 32 → exec (.wifdec rd) s =
          .next { s with
            S := s.S.set rd (BitVec.ofNat 256 (intBe key))
            flags := { s.flags with c := false, ver := version }
            busy := false, done := true }) ∧
        (∀ stem, key = stem ++ [0x01] → stem.length = 32 → exec (.wifdec rd) s =
          .next { s with
            S := s.S.set rd (BitVec.ofNat 256 (intBe stem))
            flags := { s.flags with c := true, ver := version }
            busy := false, done := true }) ∧
        (key.length ≠ 32 → (key.length ≠ 33 ∨ key.getLast? ≠ some 0x01) →
          ∃ t, exec (.wifdec rd) s = .next t ∧ FailedWith s t 6)))

/-- The WIF round trip at the command level, for every 256-bit key: WIFENC, the output as the next input, WIFDEC give
back the key, the compression flag and the version byte (R216). -/
def Obligations.WifRoundTrip : Prop :=
  ∀ (ra rd : RegIndex) (c n : Bool) (s t u : State), s.sizes.Legal → exec (.wifenc ra c n) s = .next t →
    u.input = t.memRead .obuf t.olen.toNat → u.ilen.toNat ≤ u.sizes.ibuf →
    exec (.wifdec rd) u =
      .next { u with
        S := u.S.set rd (s.S[ra])
        flags := { u.flags with c := c, ver := if n then 0xEF else 0x80 }
        busy := false, done := true }
end

