-- ==== Sys2Proof/Laws/State.lean ====
section
/-! SUPPORT. One lemma per field per state update, true by `rfl` and tagged `@[simp]`, so that no proof unfolds a
record update. -/

namespace Sys2Proof.Machine

variable (s : State)

/-! `State.setFlagT`. -/

@[simp] theorem State.setFlagT_sizes (v : Bool) : (s.setFlagT v).sizes = s.sizes := rfl
@[simp] theorem State.setFlagT_S (v : Bool) : (s.setFlagT v).S = s.S := rfl
@[simp] theorem State.setFlagT_PT (v : Bool) : (s.setFlagT v).PT = s.PT := rfl
@[simp] theorem State.setFlagT_flags (v : Bool) : (s.setFlagT v).flags = { s.flags with t := v } := rfl
@[simp] theorem State.setFlagT_busy (v : Bool) : (s.setFlagT v).busy = s.busy := rfl
@[simp] theorem State.setFlagT_done (v : Bool) : (s.setFlagT v).done = s.done := rfl
@[simp] theorem State.setFlagT_err (v : Bool) : (s.setFlagT v).err = s.err := rfl
@[simp] theorem State.setFlagT_errcode (v : Bool) : (s.setFlagT v).errcode = s.errcode := rfl
@[simp] theorem State.setFlagT_esticky (v : Bool) : (s.setFlagT v).esticky = s.esticky := rfl
@[simp] theorem State.setFlagT_ilen (v : Bool) : (s.setFlagT v).ilen = s.ilen := rfl
@[simp] theorem State.setFlagT_olen (v : Bool) : (s.setFlagT v).olen = s.olen := rfl
@[simp] theorem State.setFlagT_ha (v : Bool) : (s.setFlagT v).ha = s.ha := rfl
@[simp] theorem State.setFlagT_cmdl (v : Bool) : (s.setFlagT v).cmdl = s.cmdl := rfl
@[simp] theorem State.setFlagT_ibuf (v : Bool) : (s.setFlagT v).ibuf = s.ibuf := rfl
@[simp] theorem State.setFlagT_obuf (v : Bool) : (s.setFlagT v).obuf = s.obuf := rfl
@[simp] theorem State.setFlagT_agenda (v : Bool) : (s.setFlagT v).agenda = s.agenda := rfl
@[simp] theorem State.setFlagT_rdata (v : Bool) : (s.setFlagT v).rdata = s.rdata := rfl
@[simp] theorem State.setFlagT_epoch (v : Bool) : (s.setFlagT v).epoch = s.epoch := rfl
@[simp] theorem State.setFlagT_draws (v : Bool) : (s.setFlagT v).draws = s.draws := rfl

/-! `State.setFlagsWif`. -/

@[simp] theorem State.setFlagsWif_sizes (c : Bool) (ver : Byte) : (s.setFlagsWif c ver).sizes = s.sizes := rfl
@[simp] theorem State.setFlagsWif_S (c : Bool) (ver : Byte) : (s.setFlagsWif c ver).S = s.S := rfl
@[simp] theorem State.setFlagsWif_PT (c : Bool) (ver : Byte) : (s.setFlagsWif c ver).PT = s.PT := rfl
@[simp] theorem State.setFlagsWif_flags (c : Bool) (ver : Byte) : (s.setFlagsWif c ver).flags = { s.flags with c := c, ver := ver } := rfl
@[simp] theorem State.setFlagsWif_busy (c : Bool) (ver : Byte) : (s.setFlagsWif c ver).busy = s.busy := rfl
@[simp] theorem State.setFlagsWif_done (c : Bool) (ver : Byte) : (s.setFlagsWif c ver).done = s.done := rfl
@[simp] theorem State.setFlagsWif_err (c : Bool) (ver : Byte) : (s.setFlagsWif c ver).err = s.err := rfl
@[simp] theorem State.setFlagsWif_errcode (c : Bool) (ver : Byte) : (s.setFlagsWif c ver).errcode = s.errcode := rfl
@[simp] theorem State.setFlagsWif_esticky (c : Bool) (ver : Byte) : (s.setFlagsWif c ver).esticky = s.esticky := rfl
@[simp] theorem State.setFlagsWif_ilen (c : Bool) (ver : Byte) : (s.setFlagsWif c ver).ilen = s.ilen := rfl
@[simp] theorem State.setFlagsWif_olen (c : Bool) (ver : Byte) : (s.setFlagsWif c ver).olen = s.olen := rfl
@[simp] theorem State.setFlagsWif_ha (c : Bool) (ver : Byte) : (s.setFlagsWif c ver).ha = s.ha := rfl
@[simp] theorem State.setFlagsWif_cmdl (c : Bool) (ver : Byte) : (s.setFlagsWif c ver).cmdl = s.cmdl := rfl
@[simp] theorem State.setFlagsWif_ibuf (c : Bool) (ver : Byte) : (s.setFlagsWif c ver).ibuf = s.ibuf := rfl
@[simp] theorem State.setFlagsWif_obuf (c : Bool) (ver : Byte) : (s.setFlagsWif c ver).obuf = s.obuf := rfl
@[simp] theorem State.setFlagsWif_agenda (c : Bool) (ver : Byte) : (s.setFlagsWif c ver).agenda = s.agenda := rfl
@[simp] theorem State.setFlagsWif_rdata (c : Bool) (ver : Byte) : (s.setFlagsWif c ver).rdata = s.rdata := rfl
@[simp] theorem State.setFlagsWif_epoch (c : Bool) (ver : Byte) : (s.setFlagsWif c ver).epoch = s.epoch := rfl
@[simp] theorem State.setFlagsWif_draws (c : Bool) (ver : Byte) : (s.setFlagsWif c ver).draws = s.draws := rfl

/-! `State.setScalar`. -/

@[simp] theorem State.setScalar_sizes (i : RegIndex) (v : Scalar) : (s.setScalar i v).sizes = s.sizes := rfl
@[simp] theorem State.setScalar_S (i : RegIndex) (v : Scalar) : (s.setScalar i v).S = s.S.set i v := rfl
@[simp] theorem State.setScalar_PT (i : RegIndex) (v : Scalar) : (s.setScalar i v).PT = s.PT := rfl
@[simp] theorem State.setScalar_flags (i : RegIndex) (v : Scalar) : (s.setScalar i v).flags = s.flags := rfl
@[simp] theorem State.setScalar_busy (i : RegIndex) (v : Scalar) : (s.setScalar i v).busy = s.busy := rfl
@[simp] theorem State.setScalar_done (i : RegIndex) (v : Scalar) : (s.setScalar i v).done = s.done := rfl
@[simp] theorem State.setScalar_err (i : RegIndex) (v : Scalar) : (s.setScalar i v).err = s.err := rfl
@[simp] theorem State.setScalar_errcode (i : RegIndex) (v : Scalar) : (s.setScalar i v).errcode = s.errcode := rfl
@[simp] theorem State.setScalar_esticky (i : RegIndex) (v : Scalar) : (s.setScalar i v).esticky = s.esticky := rfl
@[simp] theorem State.setScalar_ilen (i : RegIndex) (v : Scalar) : (s.setScalar i v).ilen = s.ilen := rfl
@[simp] theorem State.setScalar_olen (i : RegIndex) (v : Scalar) : (s.setScalar i v).olen = s.olen := rfl
@[simp] theorem State.setScalar_ha (i : RegIndex) (v : Scalar) : (s.setScalar i v).ha = s.ha := rfl
@[simp] theorem State.setScalar_cmdl (i : RegIndex) (v : Scalar) : (s.setScalar i v).cmdl = s.cmdl := rfl
@[simp] theorem State.setScalar_ibuf (i : RegIndex) (v : Scalar) : (s.setScalar i v).ibuf = s.ibuf := rfl
@[simp] theorem State.setScalar_obuf (i : RegIndex) (v : Scalar) : (s.setScalar i v).obuf = s.obuf := rfl
@[simp] theorem State.setScalar_agenda (i : RegIndex) (v : Scalar) : (s.setScalar i v).agenda = s.agenda := rfl
@[simp] theorem State.setScalar_rdata (i : RegIndex) (v : Scalar) : (s.setScalar i v).rdata = s.rdata := rfl
@[simp] theorem State.setScalar_epoch (i : RegIndex) (v : Scalar) : (s.setScalar i v).epoch = s.epoch := rfl
@[simp] theorem State.setScalar_draws (i : RegIndex) (v : Scalar) : (s.setScalar i v).draws = s.draws := rfl

/-! `State.setPointRegister`. -/

@[simp] theorem State.setPointRegister_sizes (i : RegIndex) (v : PointRegister) : (s.setPointRegister i v).sizes = s.sizes := rfl
@[simp] theorem State.setPointRegister_S (i : RegIndex) (v : PointRegister) : (s.setPointRegister i v).S = s.S := rfl
@[simp] theorem State.setPointRegister_PT (i : RegIndex) (v : PointRegister) : (s.setPointRegister i v).PT = s.PT.set i v := rfl
@[simp] theorem State.setPointRegister_flags (i : RegIndex) (v : PointRegister) : (s.setPointRegister i v).flags = s.flags := rfl
@[simp] theorem State.setPointRegister_busy (i : RegIndex) (v : PointRegister) : (s.setPointRegister i v).busy = s.busy := rfl
@[simp] theorem State.setPointRegister_done (i : RegIndex) (v : PointRegister) : (s.setPointRegister i v).done = s.done := rfl
@[simp] theorem State.setPointRegister_err (i : RegIndex) (v : PointRegister) : (s.setPointRegister i v).err = s.err := rfl
@[simp] theorem State.setPointRegister_errcode (i : RegIndex) (v : PointRegister) : (s.setPointRegister i v).errcode = s.errcode := rfl
@[simp] theorem State.setPointRegister_esticky (i : RegIndex) (v : PointRegister) : (s.setPointRegister i v).esticky = s.esticky := rfl
@[simp] theorem State.setPointRegister_ilen (i : RegIndex) (v : PointRegister) : (s.setPointRegister i v).ilen = s.ilen := rfl
@[simp] theorem State.setPointRegister_olen (i : RegIndex) (v : PointRegister) : (s.setPointRegister i v).olen = s.olen := rfl
@[simp] theorem State.setPointRegister_ha (i : RegIndex) (v : PointRegister) : (s.setPointRegister i v).ha = s.ha := rfl
@[simp] theorem State.setPointRegister_cmdl (i : RegIndex) (v : PointRegister) : (s.setPointRegister i v).cmdl = s.cmdl := rfl
@[simp] theorem State.setPointRegister_ibuf (i : RegIndex) (v : PointRegister) : (s.setPointRegister i v).ibuf = s.ibuf := rfl
@[simp] theorem State.setPointRegister_obuf (i : RegIndex) (v : PointRegister) : (s.setPointRegister i v).obuf = s.obuf := rfl
@[simp] theorem State.setPointRegister_agenda (i : RegIndex) (v : PointRegister) : (s.setPointRegister i v).agenda = s.agenda := rfl
@[simp] theorem State.setPointRegister_rdata (i : RegIndex) (v : PointRegister) : (s.setPointRegister i v).rdata = s.rdata := rfl
@[simp] theorem State.setPointRegister_epoch (i : RegIndex) (v : PointRegister) : (s.setPointRegister i v).epoch = s.epoch := rfl
@[simp] theorem State.setPointRegister_draws (i : RegIndex) (v : PointRegister) : (s.setPointRegister i v).draws = s.draws := rfl

/-! `State.setPoint`. -/

@[simp] theorem State.setPoint_sizes (i : RegIndex) (P : Point) : (s.setPoint i P).sizes = s.sizes := rfl
@[simp] theorem State.setPoint_S (i : RegIndex) (P : Point) : (s.setPoint i P).S = s.S := rfl
@[simp] theorem State.setPoint_PT (i : RegIndex) (P : Point) : (s.setPoint i P).PT = s.PT.set i P.register := rfl
@[simp] theorem State.setPoint_flags (i : RegIndex) (P : Point) : (s.setPoint i P).flags = s.flags := rfl
@[simp] theorem State.setPoint_busy (i : RegIndex) (P : Point) : (s.setPoint i P).busy = s.busy := rfl
@[simp] theorem State.setPoint_done (i : RegIndex) (P : Point) : (s.setPoint i P).done = s.done := rfl
@[simp] theorem State.setPoint_err (i : RegIndex) (P : Point) : (s.setPoint i P).err = s.err := rfl
@[simp] theorem State.setPoint_errcode (i : RegIndex) (P : Point) : (s.setPoint i P).errcode = s.errcode := rfl
@[simp] theorem State.setPoint_esticky (i : RegIndex) (P : Point) : (s.setPoint i P).esticky = s.esticky := rfl
@[simp] theorem State.setPoint_ilen (i : RegIndex) (P : Point) : (s.setPoint i P).ilen = s.ilen := rfl
@[simp] theorem State.setPoint_olen (i : RegIndex) (P : Point) : (s.setPoint i P).olen = s.olen := rfl
@[simp] theorem State.setPoint_ha (i : RegIndex) (P : Point) : (s.setPoint i P).ha = s.ha := rfl
@[simp] theorem State.setPoint_cmdl (i : RegIndex) (P : Point) : (s.setPoint i P).cmdl = s.cmdl := rfl
@[simp] theorem State.setPoint_ibuf (i : RegIndex) (P : Point) : (s.setPoint i P).ibuf = s.ibuf := rfl
@[simp] theorem State.setPoint_obuf (i : RegIndex) (P : Point) : (s.setPoint i P).obuf = s.obuf := rfl
@[simp] theorem State.setPoint_agenda (i : RegIndex) (P : Point) : (s.setPoint i P).agenda = s.agenda := rfl
@[simp] theorem State.setPoint_rdata (i : RegIndex) (P : Point) : (s.setPoint i P).rdata = s.rdata := rfl
@[simp] theorem State.setPoint_epoch (i : RegIndex) (P : Point) : (s.setPoint i P).epoch = s.epoch := rfl
@[simp] theorem State.setPoint_draws (i : RegIndex) (P : Point) : (s.setPoint i P).draws = s.draws := rfl

/-! `State.setAccumulator`. -/

@[simp] theorem State.setAccumulator_sizes (a : HashAccumulator) : (s.setAccumulator a).sizes = s.sizes := rfl
@[simp] theorem State.setAccumulator_S (a : HashAccumulator) : (s.setAccumulator a).S = s.S := rfl
@[simp] theorem State.setAccumulator_PT (a : HashAccumulator) : (s.setAccumulator a).PT = s.PT := rfl
@[simp] theorem State.setAccumulator_flags (a : HashAccumulator) : (s.setAccumulator a).flags = s.flags := rfl
@[simp] theorem State.setAccumulator_busy (a : HashAccumulator) : (s.setAccumulator a).busy = s.busy := rfl
@[simp] theorem State.setAccumulator_done (a : HashAccumulator) : (s.setAccumulator a).done = s.done := rfl
@[simp] theorem State.setAccumulator_err (a : HashAccumulator) : (s.setAccumulator a).err = s.err := rfl
@[simp] theorem State.setAccumulator_errcode (a : HashAccumulator) : (s.setAccumulator a).errcode = s.errcode := rfl
@[simp] theorem State.setAccumulator_esticky (a : HashAccumulator) : (s.setAccumulator a).esticky = s.esticky := rfl
@[simp] theorem State.setAccumulator_ilen (a : HashAccumulator) : (s.setAccumulator a).ilen = s.ilen := rfl
@[simp] theorem State.setAccumulator_olen (a : HashAccumulator) : (s.setAccumulator a).olen = s.olen := rfl
@[simp] theorem State.setAccumulator_ha (a : HashAccumulator) : (s.setAccumulator a).ha = a := rfl
@[simp] theorem State.setAccumulator_cmdl (a : HashAccumulator) : (s.setAccumulator a).cmdl = s.cmdl := rfl
@[simp] theorem State.setAccumulator_ibuf (a : HashAccumulator) : (s.setAccumulator a).ibuf = s.ibuf := rfl
@[simp] theorem State.setAccumulator_obuf (a : HashAccumulator) : (s.setAccumulator a).obuf = s.obuf := rfl
@[simp] theorem State.setAccumulator_agenda (a : HashAccumulator) : (s.setAccumulator a).agenda = s.agenda := rfl
@[simp] theorem State.setAccumulator_rdata (a : HashAccumulator) : (s.setAccumulator a).rdata = s.rdata := rfl
@[simp] theorem State.setAccumulator_epoch (a : HashAccumulator) : (s.setAccumulator a).epoch = s.epoch := rfl
@[simp] theorem State.setAccumulator_draws (a : HashAccumulator) : (s.setAccumulator a).draws = s.draws := rfl

/-! `State.putOutput`. -/

@[simp] theorem State.putOutput_sizes (b : Bytes) : (s.putOutput b).sizes = s.sizes := rfl
@[simp] theorem State.putOutput_S (b : Bytes) : (s.putOutput b).S = s.S := rfl
@[simp] theorem State.putOutput_PT (b : Bytes) : (s.putOutput b).PT = s.PT := rfl
@[simp] theorem State.putOutput_flags (b : Bytes) : (s.putOutput b).flags = s.flags := rfl
@[simp] theorem State.putOutput_busy (b : Bytes) : (s.putOutput b).busy = s.busy := rfl
@[simp] theorem State.putOutput_done (b : Bytes) : (s.putOutput b).done = s.done := rfl
@[simp] theorem State.putOutput_err (b : Bytes) : (s.putOutput b).err = s.err := rfl
@[simp] theorem State.putOutput_errcode (b : Bytes) : (s.putOutput b).errcode = s.errcode := rfl
@[simp] theorem State.putOutput_esticky (b : Bytes) : (s.putOutput b).esticky = s.esticky := rfl
@[simp] theorem State.putOutput_ilen (b : Bytes) : (s.putOutput b).ilen = s.ilen := rfl
@[simp] theorem State.putOutput_olen (b : Bytes) : (s.putOutput b).olen = BitVec.ofNat 9 b.length := rfl
@[simp] theorem State.putOutput_ha (b : Bytes) : (s.putOutput b).ha = s.ha := rfl
@[simp] theorem State.putOutput_cmdl (b : Bytes) : (s.putOutput b).cmdl = s.cmdl := rfl
@[simp] theorem State.putOutput_ibuf (b : Bytes) : (s.putOutput b).ibuf = s.ibuf := rfl
@[simp] theorem State.putOutput_obuf (b : Bytes) : (s.putOutput b).obuf = s.obuf.writeBytes 0 b := rfl
@[simp] theorem State.putOutput_agenda (b : Bytes) : (s.putOutput b).agenda = s.agenda := rfl
@[simp] theorem State.putOutput_rdata (b : Bytes) : (s.putOutput b).rdata = s.rdata := rfl
@[simp] theorem State.putOutput_epoch (b : Bytes) : (s.putOutput b).epoch = s.epoch := rfl
@[simp] theorem State.putOutput_draws (b : Bytes) : (s.putOutput b).draws = s.draws := rfl

/-! `State.launch`. -/

@[simp] theorem State.launch_sizes (w : Word) : (s.launch w).sizes = s.sizes := rfl
@[simp] theorem State.launch_S (w : Word) : (s.launch w).S = s.S := rfl
@[simp] theorem State.launch_PT (w : Word) : (s.launch w).PT = s.PT := rfl
@[simp] theorem State.launch_flags (w : Word) : (s.launch w).flags = s.flags := rfl
@[simp] theorem State.launch_busy (w : Word) : (s.launch w).busy = true := rfl
@[simp] theorem State.launch_done (w : Word) : (s.launch w).done = false := rfl
@[simp] theorem State.launch_err (w : Word) : (s.launch w).err = false := rfl
@[simp] theorem State.launch_errcode (w : Word) : (s.launch w).errcode = 0 := rfl
@[simp] theorem State.launch_esticky (w : Word) : (s.launch w).esticky = s.esticky := rfl
@[simp] theorem State.launch_ilen (w : Word) : (s.launch w).ilen = s.ilen := rfl
@[simp] theorem State.launch_olen (w : Word) : (s.launch w).olen = s.olen := rfl
@[simp] theorem State.launch_ha (w : Word) : (s.launch w).ha = s.ha := rfl
@[simp] theorem State.launch_cmdl (w : Word) : (s.launch w).cmdl = w := rfl
@[simp] theorem State.launch_ibuf (w : Word) : (s.launch w).ibuf = s.ibuf := rfl
@[simp] theorem State.launch_obuf (w : Word) : (s.launch w).obuf = s.obuf := rfl
@[simp] theorem State.launch_agenda (w : Word) : (s.launch w).agenda = s.agenda := rfl
@[simp] theorem State.launch_rdata (w : Word) : (s.launch w).rdata = s.rdata := rfl
@[simp] theorem State.launch_epoch (w : Word) : (s.launch w).epoch = s.epoch := rfl
@[simp] theorem State.launch_draws (w : Word) : (s.launch w).draws = s.draws := rfl

/-! `State.completeOk`. -/

@[simp] theorem State.completeOk_sizes : (s.completeOk).sizes = s.sizes := rfl
@[simp] theorem State.completeOk_S : (s.completeOk).S = s.S := rfl
@[simp] theorem State.completeOk_PT : (s.completeOk).PT = s.PT := rfl
@[simp] theorem State.completeOk_flags : (s.completeOk).flags = s.flags := rfl
@[simp] theorem State.completeOk_busy : (s.completeOk).busy = false := rfl
@[simp] theorem State.completeOk_done : (s.completeOk).done = true := rfl
@[simp] theorem State.completeOk_err : (s.completeOk).err = s.err := rfl
@[simp] theorem State.completeOk_errcode : (s.completeOk).errcode = s.errcode := rfl
@[simp] theorem State.completeOk_esticky : (s.completeOk).esticky = s.esticky := rfl
@[simp] theorem State.completeOk_ilen : (s.completeOk).ilen = s.ilen := rfl
@[simp] theorem State.completeOk_olen : (s.completeOk).olen = s.olen := rfl
@[simp] theorem State.completeOk_ha : (s.completeOk).ha = s.ha := rfl
@[simp] theorem State.completeOk_cmdl : (s.completeOk).cmdl = s.cmdl := rfl
@[simp] theorem State.completeOk_ibuf : (s.completeOk).ibuf = s.ibuf := rfl
@[simp] theorem State.completeOk_obuf : (s.completeOk).obuf = s.obuf := rfl
@[simp] theorem State.completeOk_agenda : (s.completeOk).agenda = s.agenda := rfl
@[simp] theorem State.completeOk_rdata : (s.completeOk).rdata = s.rdata := rfl
@[simp] theorem State.completeOk_epoch : (s.completeOk).epoch = s.epoch := rfl
@[simp] theorem State.completeOk_draws : (s.completeOk).draws = s.draws := rfl

/-! `State.abort`. -/

@[simp] theorem State.abort_sizes (e : CommandError) : (s.abort e).sizes = s.sizes := rfl
@[simp] theorem State.abort_S (e : CommandError) : (s.abort e).S = s.S := rfl
@[simp] theorem State.abort_PT (e : CommandError) : (s.abort e).PT = s.PT := rfl
@[simp] theorem State.abort_flags (e : CommandError) : (s.abort e).flags = s.flags := rfl
@[simp] theorem State.abort_busy (e : CommandError) : (s.abort e).busy = false := rfl
@[simp] theorem State.abort_done (e : CommandError) : (s.abort e).done = false := rfl
@[simp] theorem State.abort_err (e : CommandError) : (s.abort e).err = true := rfl
@[simp] theorem State.abort_errcode (e : CommandError) : (s.abort e).errcode = BitVec.ofNat 8 e.code := rfl
@[simp] theorem State.abort_esticky (e : CommandError) : (s.abort e).esticky = s.esticky ||| e.stickyBit := rfl
@[simp] theorem State.abort_ilen (e : CommandError) : (s.abort e).ilen = s.ilen := rfl
@[simp] theorem State.abort_olen (e : CommandError) : (s.abort e).olen = s.olen := rfl
@[simp] theorem State.abort_ha (e : CommandError) : (s.abort e).ha = s.ha := rfl
@[simp] theorem State.abort_cmdl (e : CommandError) : (s.abort e).cmdl = s.cmdl := rfl
@[simp] theorem State.abort_ibuf (e : CommandError) : (s.abort e).ibuf = s.ibuf := rfl
@[simp] theorem State.abort_obuf (e : CommandError) : (s.abort e).obuf = s.obuf := rfl
@[simp] theorem State.abort_agenda (e : CommandError) : (s.abort e).agenda = s.agenda := rfl
@[simp] theorem State.abort_rdata (e : CommandError) : (s.abort e).rdata = s.rdata := rfl
@[simp] theorem State.abort_epoch (e : CommandError) : (s.abort e).epoch = s.epoch := rfl
@[simp] theorem State.abort_draws (e : CommandError) : (s.abort e).draws = s.draws := rfl

/-! `State.applyReset`. -/

@[simp] theorem State.applyReset_sizes : (s.applyReset).sizes = s.sizes := rfl
@[simp] theorem State.applyReset_S : (s.applyReset).S = Vector.replicate 4 0 := rfl
@[simp] theorem State.applyReset_PT : (s.applyReset).PT = Vector.replicate 4 PointRegister.infinity := rfl
@[simp] theorem State.applyReset_flags : (s.applyReset).flags = ⟨false, false, 0⟩ := rfl
@[simp] theorem State.applyReset_busy : (s.applyReset).busy = false := rfl
@[simp] theorem State.applyReset_done : (s.applyReset).done = false := rfl
@[simp] theorem State.applyReset_err : (s.applyReset).err = false := rfl
@[simp] theorem State.applyReset_errcode : (s.applyReset).errcode = 0 := rfl
@[simp] theorem State.applyReset_esticky : (s.applyReset).esticky = 0 := rfl
@[simp] theorem State.applyReset_ilen : (s.applyReset).ilen = 0 := rfl
@[simp] theorem State.applyReset_olen : (s.applyReset).olen = 0 := rfl
@[simp] theorem State.applyReset_ha : (s.applyReset).ha = HashAccumulator.atReset := rfl
@[simp] theorem State.applyReset_cmdl : (s.applyReset).cmdl = 0 := rfl
@[simp] theorem State.applyReset_ibuf : (s.applyReset).ibuf = [] := rfl
@[simp] theorem State.applyReset_obuf : (s.applyReset).obuf = [] := rfl
@[simp] theorem State.applyReset_agenda : (s.applyReset).agenda = s.agenda := rfl
@[simp] theorem State.applyReset_rdata : (s.applyReset).rdata = s.rdata := rfl
@[simp] theorem State.applyReset_epoch : (s.applyReset).epoch = s.epoch + 1 := rfl
@[simp] theorem State.applyReset_draws : (s.applyReset).draws = s.draws := rfl

end Sys2Proof.Machine
end

