-- ==== Sys2Proof/Laws/Memory.lean ====
section
/-! SUPPORT. The laws of the byte memories: what a write changes, and that every memory operation keeps the canonical
form. -/

namespace Sys2Proof.Machine

theorem Memory.lookup_write_self (m : Memory) (k : Nat) (v : Byte) : (m.write k v).lookup k = some v := by
  induction m with
  | nil => simp [Memory.write, Memory.lookup]
  | cons cell m ih =>
    obtain ⟨a, u⟩ := cell
    by_cases hlt : k < a
    · simp [Memory.write, Memory.lookup, hlt]
    · by_cases heq : k = a
      · simp [Memory.write, Memory.lookup, heq]
      · simpa [Memory.write, Memory.lookup, hlt, heq, Ne.symm heq] using ih

theorem Memory.lookup_write_ne (m : Memory) {k j : Nat} (v : Byte) (h : j ≠ k) :
    (m.write k v).lookup j = m.lookup j := by
  induction m with
  | nil => simp [Memory.write, Memory.lookup, Ne.symm h]
  | cons cell m ih =>
    obtain ⟨a, u⟩ := cell
    by_cases hlt : k < a
    · simp [Memory.write, Memory.lookup, hlt, Ne.symm h]
    · by_cases heq : k = a
      · subst heq; simp [Memory.write, Memory.lookup, Ne.symm h]
      · simp [Memory.write, Memory.lookup, hlt, heq, ih]

/-- What a write lists: the written cell, and otherwise only cells that were listed. -/
theorem Memory.mem_write {m : Memory} {k : Nat} {v : Byte} {cell : Host.Cell} (h : cell ∈ m.write k v) :
    cell = (k, v) ∨ cell ∈ m := by
  induction m with
  | nil => simpa [Memory.write] using h
  | cons c m ih =>
    obtain ⟨a, u⟩ := c
    simp only [Memory.write] at h
    split_ifs at h
    · simpa using h
    · rcases List.mem_cons.mp h with rfl | h
      · exact .inl rfl
      · exact .inr (by simp [h])
    · rcases List.mem_cons.mp h with rfl | h
      · exact .inr (by simp)
      · rcases ih h with h | h
        · exact .inl h
        · exact .inr (by simp [h])

theorem Memory.write_wf {m : Memory} (h : m.wf) (k : Nat) (v : Byte) : (m.write k v).wf := by
  induction m with
  | nil => simp [Memory.write, Memory.wf]
  | cons c m ih =>
    obtain ⟨a, u⟩ := c
    have hc : (∀ x ∈ m.map Prod.fst, a < x) ∧ (m.map Prod.fst).Pairwise (· < ·) := by
      simpa only [Memory.wf, List.map_cons, List.pairwise_cons] using h
    simp only [Memory.write]
    split_ifs with hlt heq
    · simp only [Memory.wf, List.map_cons, List.pairwise_cons]
      refine ⟨?_, hc⟩
      intro x hx
      rcases List.mem_cons.mp hx with rfl | hx
      · exact hlt
      · exact lt_trans hlt (hc.1 x hx)
    · subst heq
      simpa only [Memory.wf, List.map_cons, List.pairwise_cons] using hc
    · simp only [Memory.wf, List.map_cons, List.pairwise_cons]
      refine ⟨?_, ih hc.2⟩
      intro x hx
      obtain ⟨cell, hcell, rfl⟩ := List.mem_map.mp hx
      rcases Memory.mem_write hcell with rfl | hcell
      · show a < k
        omega
      · exact hc.1 _ (List.mem_map_of_mem hcell)

theorem Memory.write_within {m : Memory} {size : Nat} (h : m.within size) {k : Nat} (hk : k < size) (v : Byte) :
    (m.write k v).within size := by
  intro cell hcell
  rcases Memory.mem_write hcell with rfl | hcell
  · exact hk
  · exact h cell hcell

theorem Memory.writeBytes_wf {m : Memory} (h : m.wf) (k : Nat) (b : Bytes) : (m.writeBytes k b).wf := by
  induction b generalizing m k with
  | nil => exact h
  | cons v b ih => exact ih (Memory.write_wf h k v) (k + 1)

theorem Memory.writeBytes_within {m : Memory} {size : Nat} (h : m.within size) {k : Nat} {b : Bytes}
    (hk : k + b.length ≤ size) : (m.writeBytes k b).within size := by
  induction b generalizing m k with
  | nil => exact h
  | cons v b ih =>
    have hlen : k + (b.length + 1) ≤ size := by simpa using hk
    exact ih (Memory.write_within h (by omega) v) (by omega)

/-- A string written at `k` leaves every byte outside it alone. -/
theorem Memory.lookup_writeBytes_outside (m : Memory) {k j : Nat} (b : Bytes) (h : j < k ∨ k + b.length ≤ j) :
    (m.writeBytes k b).lookup j = m.lookup j := by
  induction b generalizing m k with
  | nil => rfl
  | cons v b ih =>
    have hj : j < k ∨ k + (b.length + 1) ≤ j := by simpa using h
    rw [Memory.writeBytes, ih (k := k + 1) _ (by omega), Memory.lookup_write_ne _ _ (by omega)]

/-- A string written at `k` is what is read there. -/
theorem Memory.lookup_writeBytes_inside (m : Memory) (k : Nat) (b : Bytes) (i : Nat) (h : i < b.length) :
    (m.writeBytes k b).lookup (k + i) = some b[i] := by
  induction b generalizing m k i with
  | nil => exact absurd h (by simp)
  | cons v b ih =>
    cases i with
    | zero =>
      rw [Memory.writeBytes, Memory.lookup_writeBytes_outside _ _ (by omega)]
      simpa using Memory.lookup_write_self m k v
    | succ i =>
      have hi : i < b.length := by simpa using h
      have := ih (m.write k v) (k + 1) i hi
      simpa [Memory.writeBytes, Nat.add_assoc, Nat.add_comm 1 i] using this

/-- The memories of the reset state are in canonical form. -/
theorem State.reset_memories_wf : State.reset.ibuf.wf ∧ State.reset.obuf.wf := by
  constructor <;> exact List.Pairwise.nil

/-- One HOST write to the input window keeps the canonical form and the bound. -/
theorem writeLanes_wf (size m : Nat) (w : Word) (lanes : Nat) {mem : Memory} (h : mem.wf) :
    (writeLanes size m w lanes mem).wf := by
  induction lanes with
  | zero => exact h
  | succ i ih =>
    simp only [writeLanes]
    split_ifs
    · exact Memory.write_wf ih _ _
    · exact ih

theorem writeLanes_within (size m : Nat) (w : Word) (lanes : Nat) {mem : Memory} (h : mem.within size) :
    (writeLanes size m w lanes mem).within size := by
  induction lanes with
  | zero => exact h
  | succ i ih =>
    simp only [writeLanes]
    split_ifs with hi
    · exact Memory.write_within ih hi _
    · exact ih

/-- What a HOST write to the input window leaves at each index: the lane of the written word, or what was there. -/
theorem lookup_writeLanes (size m : Nat) (w : Word) (lanes : Nat) (mem : Memory) (k : Nat) :
    (writeLanes size m w lanes mem).lookup k =
      if 4 * m ≤ k ∧ k < 4 * m + lanes ∧ k < size then some (w.extractLsb' (8 * (k - 4 * m)) 8)
      else mem.lookup k := by
  induction lanes with
  | zero =>
    have : ¬(4 * m ≤ k ∧ k < 4 * m + 0 ∧ k < size) := by omega
    rw [if_neg this, writeLanes]
  | succ i ih =>
    simp only [writeLanes]
    by_cases hk : k = 4 * m + i
    · subst hk
      by_cases hi : 4 * m + i < size
      · rw [if_pos hi, Memory.lookup_write_self, if_pos ⟨by omega, by omega, hi⟩]
        simp
      · rw [if_neg hi, ih, if_neg (by omega), if_neg (by omega)]
    · have hstep : (if 4 * m + i < size then
          (writeLanes size m w i mem).write (4 * m + i) (w.extractLsb' (8 * i) 8)
          else writeLanes size m w i mem).lookup k = (writeLanes size m w i mem).lookup k := by
        split_ifs
        · exact Memory.lookup_write_ne _ _ hk
        · rfl
      rw [hstep, ih]
      by_cases hin : 4 * m ≤ k ∧ k < 4 * m + i ∧ k < size
      · rw [if_pos hin, if_pos ⟨hin.1, by omega, hin.2.2⟩]
      · rw [if_neg hin, if_neg (by omega)]

end Sys2Proof.Machine
end

