-- ==== Sys2Proof/Laws/Ops.lean ====
section
/-! SUPPORT. For each shared operation, once, everything it can do: the lemmas to cite instead of unfolding it. -/

namespace Sys2Proof.Machine

/-! Stages of a command (R14): a `raise` ends it, a value is handed on. -/

/-- A stage and what comes after it, as R14 reads the pseudocode. -/
theorem stage_as_match {α β : Type} (stage : Except CommandError α) (after : α → Except CommandError β) :
    (do let value ← stage; after value) =
      match stage with
      | .error raised => .error raised
      | .ok value => after value := by
  cases stage <;> rfl

/-! The end of a command (R72, R236). -/

@[simp] theorem State.finish_ok (s t : State) : s.finish (.ok t) = .next t.completeOk := rfl

@[simp] theorem State.finish_error (s : State) (e : CommandError) : s.finish (.error e) = .next (s.abort e) := rfl

/-- A command ends with its result completed, or aborted. -/
theorem State.finish_cases {s t : State} {r : Except CommandError State} (h : s.finish r = .next t) :
    (∃ u, r = .ok u ∧ t = u.completeOk) ∨ ∃ e, r = .error e ∧ t = s.abort e := by
  cases r with
  | ok u => exact .inl ⟨u, rfl, by simpa using h.symm⟩
  | error e => exact .inr ⟨e, rfl, by simpa using h.symm⟩

/-- A command that ended `Ok` computed its result without an error. -/
theorem State.finish_done {s t : State} {r : Except CommandError State} (h : s.finish r = .next t)
    (hd : t.done = true) : ∃ u, r = .ok u ∧ t = u.completeOk := by
  rcases State.finish_cases h with hu | ⟨e, -, rfl⟩
  · exact hu
  · simp at hd

/-- A command whose next stage answers ends as the rest of it does (R14). -/
theorem State.finish_stage_ok (s : State) {α : Type} {stage : Except CommandError α} {value : α}
    (answers : stage = .ok value) (after : α → Except CommandError State) :
    s.finish (do let v ← stage; after v) = s.finish (after value) := by
  subst answers; rfl

/-- A command whose next stage raises ends in the abort with that error (R14, R236). -/
theorem State.finish_stage_error (s : State) {α : Type} {stage : Except CommandError α} {raised : CommandError}
    (raises : stage = .error raised) (after : α → Except CommandError State) :
    s.finish (do let v ← stage; after v) = .next (s.abort raised) := by
  subst raises; rfl

/-- Where a command with a stage in front can end: in the abort with what the stage raises, or where the rest ends. -/
theorem State.finish_stage_cases {s t : State} {α : Type} (stage : Except CommandError α)
    {after : α → Except CommandError State} (ends : s.finish (do let v ← stage; after v) = .next t) :
    (∃ raised, stage = .error raised ∧ s.abort raised = t) ∨
      ∃ value, stage = .ok value ∧ s.finish (after value) = .next t := by
  rw [stage_as_match] at ends
  cases stage with
  | error raised => exact .inl ⟨raised, rfl, by simpa using ends⟩
  | ok value => exact .inr ⟨value, rfl, ends⟩

theorem CommandError.code_range (e : CommandError) : 1 ≤ e.code ∧ e.code ≤ 10 := by
  cases e <;> decide

/-! Operands. -/

/-- `getpt` answers the identity, or the coordinates of a register in range (R120). -/
theorem PointRegister.value_eq_ok {r : PointRegister} {P : Point} (h : r.value = .ok P) :
    (r.inf = true ∧ P = .inf) ∨
      (r.inf = false ∧ r.x.toNat < fieldPrime ∧ r.y.toNat < fieldPrime ∧ P = .aff r.x.toNat r.y.toNat) := by
  unfold PointRegister.value at h
  split_ifs at h with hinf hrange
  · exact .inl ⟨hinf, by simpa using h.symm⟩
  · exact .inr ⟨by simpa using hinf, by omega, by omega, by simpa using h.symm⟩

/-- `getpt` raises nothing but `OperandRange`, and only for a coordinate out of range (R120, R233). -/
theorem PointRegister.value_eq_error {r : PointRegister} {e : CommandError} (h : r.value = .error e) :
    e = .operandRange ∧ r.inf = false ∧ (fieldPrime ≤ r.x.toNat ∨ fieldPrime ≤ r.y.toNat) := by
  unfold PointRegister.value at h
  split_ifs at h with hinf hrange
  exact ⟨by simpa using h.symm, by simpa using hinf, by simpa using hrange⟩

/-- Reading the input answers `in()` when the declared length fits, else raises `OperandRange` (R233). -/
theorem State.checkedInput_eq_ok {s : State} {b : Bytes} (h : s.checkedInput = .ok b) :
    s.ilen.toNat ≤ s.sizes.ibuf ∧ b = s.input := by
  unfold State.checkedInput at h
  split_ifs at h with hlen
  exact ⟨by omega, by simpa using h.symm⟩

theorem State.checkedInput_of_le {s : State} (h : s.ilen.toNat ≤ s.sizes.ibuf) : s.checkedInput = .ok s.input := by
  unfold State.checkedInput
  rw [if_neg (by omega)]

theorem State.checkedInput_of_gt {s : State} (h : s.sizes.ibuf < s.ilen.toNat) :
    s.checkedInput = .error .operandRange := by
  unfold State.checkedInput
  rw [if_pos (by omega)]

/-- `out(b)` answers the state with the string in `OBUF` when it fits (R13). -/
theorem State.out_eq_ok {s t : State} {b : Bytes} (h : s.out b = .ok t) :
    b.length ≤ s.sizes.obuf ∧ t = s.putOutput b := by
  unfold State.out at h
  split_ifs at h with hlen
  exact ⟨by omega, by simpa using h.symm⟩

theorem State.out_of_le {s : State} {b : Bytes} (h : b.length ≤ s.sizes.obuf) : s.out b = .ok (s.putOutput b) := by
  unfold State.out
  rw [if_neg (by omega)]

theorem State.out_of_gt {s : State} {b : Bytes} (h : s.sizes.obuf < b.length) :
    s.out b = .error .bufferOverflow := by
  unfold State.out
  rw [if_pos (by omega)]

/-- The accumulator of a running message, else `HashSequence` (R235). -/
theorem State.activeAccumulator_eq_ok {s : State} {a : HashAccumulator} (h : s.activeAccumulator = .ok a) :
    s.ha.st = .active ∧ a = s.ha := by
  unfold State.activeAccumulator at h
  split_ifs at h with hst
  exact ⟨hst, by simpa using h.symm⟩

/-! Buffers. -/

@[simp] theorem State.memRead_length (s : State) (b : Config.Buffer) (n : Nat) : (s.memRead b n).length = n := by
  simp [State.memRead]

@[simp] theorem State.input_length (s : State) : s.input.length = s.ilen.toNat := by
  simp [State.input]

/-- After `out(b)` the string is what `OBUF` holds from byte 0 (R42). -/
theorem State.memRead_putOutput (s : State) (b : Bytes) : (s.putOutput b).memRead .obuf b.length = b := by
  apply List.ext_getElem
  · simp
  · intro i h₁ h₂
    have := Memory.lookup_writeBytes_inside s.obuf 0 b i h₂
    simp only [Nat.zero_add] at this
    simp [State.memRead, State.bufferByte, this]

/-- `out(b)` leaves the bytes from `len(b)` up unchanged (R42). -/
theorem State.bufferByte_putOutput (s : State) (b : Bytes) {k : Nat} (h : b.length ≤ k) :
    (s.putOutput b).bufferByte .obuf k = s.bufferByte .obuf k := by
  simp [State.bufferByte, Memory.lookup_writeBytes_outside s.obuf b (k := 0) (j := k) (by omega)]

/-! Wide registers in the window. -/

theorem wordMask_getLsbD (n : Nat) : ((0xFFFFFFFF : Scalar)).getLsbD n = decide (n < 32) := by
  have h : (0xFFFFFFFF : Scalar) = (BitVec.allOnes 32).setWidth 256 := by decide
  rw [h, BitVec.getLsbD_setWidth, BitVec.getLsbD_allOnes]
  by_cases hn : n < 32
  · simp [hn]; omega
  · simp [hn]

/-- The bits of a 256-bit quantity with one word replaced. -/
theorem setScalarWord_getLsbD (v : Scalar) (k : Fin 8) (w : Word) (n : Nat) (hn : n < 256) :
    (setScalarWord v k w).getLsbD n =
      if 32 * k.val ≤ n ∧ n < 32 * k.val + 32 then w.getLsbD (n - 32 * k.val) else v.getLsbD n := by
  unfold setScalarWord
  rw [BitVec.getLsbD_or, BitVec.getLsbD_and, BitVec.getLsbD_not, BitVec.getLsbD_shiftLeft, BitVec.getLsbD_shiftLeft,
    wordMask_getLsbD]
  simp only [BitVec.truncate_eq_setWidth, BitVec.getLsbD_setWidth]
  by_cases hlo : n < 32 * k.val
  · rw [if_neg (by omega)]
    simp [hn, hlo]
  · by_cases hhi : n - 32 * k.val < 32
    · rw [if_pos (by omega)]
      simp [hn, hlo, hhi]
      intro _
      omega
    · rw [if_neg (by omega)]
      have hw : w.getLsbD (n - 32 * k.val) = false := BitVec.getLsbD_of_ge _ _ (by omega)
      simp [hn, hlo, hhi, hw]

/-- A word written to a wide register reads back. -/
theorem scalarWord_setScalarWord_self (v : Scalar) (k : Fin 8) (w : Word) :
    scalarWord (setScalarWord v k w) k = w := by
  apply BitVec.eq_of_getLsbD_eq
  intro i hi
  rw [scalarWord, BitVec.getLsbD_extractLsb', setScalarWord_getLsbD _ _ _ _ (by omega), if_pos (by omega)]
  simp [hi]

/-- A word written to a wide register leaves its other words alone. -/
theorem scalarWord_setScalarWord_ne (v : Scalar) {j k : Fin 8} (w : Word) (h : j ≠ k) :
    scalarWord (setScalarWord v k w) j = scalarWord v j := by
  have hjk : j.val ≠ k.val := fun hv => h (Fin.ext hv)
  apply BitVec.eq_of_getLsbD_eq
  intro i hi
  rw [scalarWord, scalarWord, BitVec.getLsbD_extractLsb', BitVec.getLsbD_extractLsb',
    setScalarWord_getLsbD _ _ _ _ (by omega), if_neg (by omega)]

end Sys2Proof.Machine
end

