-- ==== Sys2Proof/Laws/Ecc.lean ====
section
/-! SUPPORT. The curve engine: one turn of double-and-add, and the one error that its functions raise (R121 to R126). -/

namespace Sys2Proof.Machine

theorem modInverse_raises {a : Nat} {e : CommandError} (h : modInverse a = .error e) :
    a % fieldPrime = 0 ∧ e = .divisionByZero := by
  unfold modInverse at h
  split_ifs at h with ha
  exact ⟨ha, by simpa using h.symm⟩

/-- Doubling raises nothing but `DivisionByZero` (R124). -/
theorem pointDouble_raises {P : Point} {e : CommandError} (h : pointDouble P = .error e) : e = .divisionByZero := by
  cases P with
  | inf => cases h
  | aff x y =>
    simp only [pointDouble] at h
    split_ifs at h with hy
    · simpa using h.symm
    · rw [stage_as_match] at h
      split at h
      · rename_i raised hraised
        obtain rfl : raised = e := by simpa using h
        exact (modInverse_raises hraised).2
      · cases h

/-- Addition raises nothing but `DivisionByZero` (R123). -/
theorem pointAdd_raises {P Q : Point} {e : CommandError} (h : pointAdd P Q = .error e) : e = .divisionByZero := by
  unfold pointAdd at h
  split at h
  · cases h
  · cases h
  · split_ifs at h with heq hopp
    · exact pointDouble_raises h
    · rw [stage_as_match] at h
      split at h
      · rename_i raised hraised
        obtain rfl : raised = e := by simpa using h
        exact (modInverse_raises hraised).2
      · cases h

/-- No iteration left: the result is the accumulator (R126). -/
@[simp] theorem doubleAndAdd_zero (k : Scalar) (i : Nat) (R Q : Point) : doubleAndAdd k 0 i R Q = .ok R := rfl

/-- One iteration (R126): the addition if bit `i` is 1, then the doubling, then the rest. -/
theorem doubleAndAdd_succ (k : Scalar) (turns i : Nat) (R Q : Point) :
    doubleAndAdd k (turns + 1) i R Q =
      match (if k.getLsbD i then pointAdd R Q else .ok R) with
      | .error raised => .error raised
      | .ok R' =>
        match pointDouble Q with
        | .error raised => .error raised
        | .ok Q' => doubleAndAdd k turns (i + 1) R' Q' := by
  rw [doubleAndAdd]
  cases k.getLsbD i with
  | true => cases pointAdd R Q <;> cases pointDouble Q <;> rfl
  | false => cases pointDouble Q <;> rfl

/-- Scalar multiplication raises nothing but `DivisionByZero` (R126, R128). -/
theorem doubleAndAdd_raises {k : Scalar} {e : CommandError} :
    ∀ {turns i : Nat} {R Q : Point}, doubleAndAdd k turns i R Q = .error e → e = .divisionByZero
  | 0, _, _, _, h => by cases h
  | turns + 1, i, R, Q, h => by
    rw [doubleAndAdd_succ] at h
    split at h
    · rename_i raised hadd
      obtain rfl : raised = e := by simpa using h
      split_ifs at hadd
      exact pointAdd_raises hadd
    · split at h
      · rename_i raised hdouble
        obtain rfl : raised = e := by simpa using h
        exact pointDouble_raises hdouble
      · exact doubleAndAdd_raises h

end Sys2Proof.Machine
end

