-- ==== Sys2Proof/Laws/Exec.lean ====
section
/-! SUPPORT. What a command, the CORE step and a step of the machine can do. -/

namespace Sys2Proof.Machine

/-- Every command is the end of some computation on the state it began in: `Ok` with a state, or an error (R14). -/
theorem exec_is_finish (i : Instr) (s : State) : ∃ r : Except CommandError State, exec i s = s.finish r := by
  cases i <;> first | exact ⟨_, rfl⟩ | exact ⟨.ok _, rfl⟩

/-- A command always answers a next state (R72): its result completed, or the abort. -/
theorem exec_answers (i : Instr) (s : State) :
    (∃ u, exec i s = .next (State.completeOk u)) ∨ ∃ e, exec i s = .next (s.abort e) := by
  obtain ⟨r, hr⟩ := exec_is_finish i s
  cases r with
  | ok u => exact .inl ⟨u, hr⟩
  | error e => exact .inr ⟨e, hr⟩

/-- The CORE step runs the decoded command or aborts with `IllegalCommand` (R72, R98). -/
theorem coreStep_cases (s : State) :
    (∃ i, decode s.cmdl = .ok i ∧ coreStep s = exec i s) ∨
      ∃ e, decode s.cmdl = .error e ∧ coreStep s = .next (s.abort .illegalCommand) := by
  unfold coreStep State.fetchCommand
  cases h : decode s.cmdl with
  | ok i => exact .inl ⟨i, rfl, by simp⟩
  | error e => exact .inr ⟨e, rfl, by simp⟩

/-- A HOST transaction that answers moved 32 bits at a multiple of 4 (R63), and is the write or the read. -/
theorem hostMove_cases {s t : State} {m : HostMove} (h : s.hostMove m = .next t) :
    m.wellFormed = true ∧
      ((∃ a w, m = .write .bits32 a w ∧ t = s.hostWrite a w) ∨
        ∃ a, m = .read .bits32 a ∧ t = s.hostRead a) := by
  unfold State.hostMove at h
  split_ifs at h with hw ha
  have hwidth : m.fullWidth = true := by simpa using hw
  have haligned : m.aligned = true := by simpa using ha
  refine ⟨by simp [HostMove.wellFormed, hwidth, haligned], ?_⟩
  cases m with
  | write width a w =>
    have : width = .bits32 := by simpa [HostMove.fullWidth, HostMove.width] using hwidth
    subst this
    exact .inl ⟨a, w, rfl, by simpa using h.symm⟩
  | read width a =>
    have : width = .bits32 := by simpa [HostMove.fullWidth, HostMove.width] using hwidth
    subst this
    exact .inr ⟨a, rfl, by simpa using h.symm⟩

/-- A well-formed HOST transaction answers. -/
theorem hostMove_of_wellFormed {s : State} {m : HostMove} (h : m.wellFormed = true) : ∃ t, s.hostMove m = .next t := by
  have hw : m.fullWidth = true ∧ m.aligned = true := by simpa [HostMove.wellFormed] using h
  unfold State.hostMove
  cases m with
  | write width a w => exact ⟨s.hostWrite a w, by simp [hw.1, hw.2]⟩
  | read width a => exact ⟨s.hostRead a, by simp [hw.1, hw.2]⟩

/-- Everything one step can do (R74): a HOST write, a HOST read, an idle turn, a command, the abort of an illegal word,
or a reset, in the state `u` from which the event was taken. -/
theorem step_cases {s t : State} (h : step s = .next t) :
    ∃ e u, s.nextEvent = (e, u) ∧
      ((∃ a w, e = .hostWrite a w ∧ a.toNat % 4 = 0 ∧ t = u.hostWrite a w) ∨
        (∃ a, e = .hostRead a ∧ a.toNat % 4 = 0 ∧ t = u.hostRead a) ∨
        (e = .core ∧ u.busy = false ∧ t = u) ∨
        (∃ i, e = .core ∧ u.busy = true ∧ decode u.cmdl = .ok i ∧ exec i u = .next t) ∨
        (∃ err, e = .core ∧ u.busy = true ∧ decode u.cmdl = .error err ∧ t = u.abort .illegalCommand) ∨
        (e = .reset ∧ t = u.applyReset)) := by
  refine ⟨s.nextEvent.1, s.nextEvent.2, rfl, ?_⟩
  unfold step at h
  cases he : s.nextEvent.1 with
  | host m =>
    rw [he] at h
    obtain ⟨hwf, ⟨a, w, rfl, rfl⟩ | ⟨a, rfl, rfl⟩⟩ := hostMove_cases h
    · exact .inl ⟨a, w, rfl, by simpa [HostMove.wellFormed, HostMove.fullWidth, HostMove.aligned, HostMove.width,
        HostMove.address] using hwf, rfl⟩
    · exact .inr (.inl ⟨a, rfl, by simpa [HostMove.wellFormed, HostMove.fullWidth, HostMove.aligned, HostMove.width,
        HostMove.address] using hwf, rfl⟩)
  | core =>
    rw [he] at h
    simp only [runEvent, coreTurn] at h
    split_ifs at h with hb
    · rcases coreStep_cases s.nextEvent.2 with ⟨i, hd, hx⟩ | ⟨err, hd, hx⟩
      · exact .inr (.inr (.inr (.inl ⟨i, rfl, hb, hd, by rw [← hx]; exact h⟩)))
      · rw [hx] at h
        exact .inr (.inr (.inr (.inr (.inl ⟨err, rfl, hb, hd, by simpa using h.symm⟩))))
    · exact .inr (.inr (.inl ⟨rfl, by simpa using hb, by simpa using h.symm⟩))
  | reset =>
    rw [he] at h
    exact .inr (.inr (.inr (.inr (.inr ⟨rfl, by simpa [runEvent] using h.symm⟩))))

end Sys2Proof.Machine
end

