-- ==== Sys2Proof/Laws/PerInstr.lean ====
section
/-! SUPPORT. Statements for every command, one lemma per constructor. -/

namespace Sys2Proof.Laws

/-- The word of a command fits its own row of the opcode map: the bits its format fixes are the opcode and zeros
(R92, R96). -/
def EncodingFitsRow.Statement (i : Instr) : Prop :=
  encode i &&& (formatOf i).mask = BitVec.ofNat 32 (opcodeOf i)

theorem EncodingFitsRow.modinv (x : RegIndex) (y : RegIndex) : EncodingFitsRow.Statement (.modinv x y) := by
  unfold EncodingFitsRow.Statement; revert x y; decide

theorem EncodingFitsRow.padd (x : RegIndex) (y : RegIndex) (z : RegIndex) : EncodingFitsRow.Statement (.padd x y z) := by
  unfold EncodingFitsRow.Statement; revert x y z; decide

theorem EncodingFitsRow.pdbl (x : RegIndex) (y : RegIndex) : EncodingFitsRow.Statement (.pdbl x y) := by
  unfold EncodingFitsRow.Statement; revert x y; decide

theorem EncodingFitsRow.smul (x : RegIndex) (y : RegIndex) (z : RegIndex) : EncodingFitsRow.Statement (.smul x y z) := by
  unfold EncodingFitsRow.Statement; revert x y z; decide

theorem EncodingFitsRow.oncurve (x : RegIndex) : EncodingFitsRow.Statement (.oncurve x) := by
  unfold EncodingFitsRow.Statement; revert x; decide

theorem EncodingFitsRow.keyvalid (x : RegIndex) : EncodingFitsRow.Statement (.keyvalid x) := by
  unfold EncodingFitsRow.Statement; revert x; decide

theorem EncodingFitsRow.pldg (x : RegIndex) : EncodingFitsRow.Statement (.pldg x) := by
  unfold EncodingFitsRow.Statement; revert x; decide

theorem EncodingFitsRow.haInit : EncodingFitsRow.Statement .haInit := by
  unfold EncodingFitsRow.Statement; decide

theorem EncodingFitsRow.haUpdate : EncodingFitsRow.Statement .haUpdate := by
  unfold EncodingFitsRow.Statement; decide

theorem EncodingFitsRow.haDigest : EncodingFitsRow.Statement .haDigest := by
  unfold EncodingFitsRow.Statement; decide

theorem EncodingFitsRow.hbHash : EncodingFitsRow.Statement .hbHash := by
  unfold EncodingFitsRow.Statement; decide

theorem EncodingFitsRow.b58enc : EncodingFitsRow.Statement .b58enc := by
  unfold EncodingFitsRow.Statement; decide

theorem EncodingFitsRow.b58dec : EncodingFitsRow.Statement .b58dec := by
  unfold EncodingFitsRow.Statement; decide

theorem EncodingFitsRow.b58cenc : EncodingFitsRow.Statement .b58cenc := by
  unfold EncodingFitsRow.Statement; decide

theorem EncodingFitsRow.b58cdec : EncodingFitsRow.Statement .b58cdec := by
  unfold EncodingFitsRow.Statement; decide

theorem EncodingFitsRow.derivepub (x : RegIndex) (y : RegIndex) (z : Bool) : EncodingFitsRow.Statement (.derivepub x y z) := by
  unfold EncodingFitsRow.Statement; revert x y z; decide

theorem EncodingFitsRow.deriveaddr : EncodingFitsRow.Statement .deriveaddr := by
  unfold EncodingFitsRow.Statement; decide

theorem EncodingFitsRow.wifenc (x : RegIndex) (y : Bool) (z : Bool) : EncodingFitsRow.Statement (.wifenc x y z) := by
  unfold EncodingFitsRow.Statement; revert x y z; decide

theorem EncodingFitsRow.wifdec (x : RegIndex) : EncodingFitsRow.Statement (.wifdec x) := by
  unfold EncodingFitsRow.Statement; revert x; decide

end Sys2Proof.Laws
end

