-- ==== Sys2Proof/Laws/Primes.lean ====
section
/-! SUPPORT. The two numbers of R30 that the spec calls primes are primes: certificates of Lucas, each factor of
`q - 1` certified in turn. And `-7` is no cube modulo `p`, so no point of the curve has `y = 0` (R126). -/

namespace Sys2Proof.Laws

open Sys2Proof.Machine

/-- `a ^ e mod m` by repeated squaring, for `e < 2 ^ fuel`. -/
def powMod (m : Nat) : Nat → Nat → Nat → Nat
  | 0, _, _ => 1 % m
  | fuel + 1, a, e =>
    if e % 2 = 1 then a * powMod m fuel (a * a % m) (e / 2) % m else powMod m fuel (a * a % m) (e / 2)

theorem powMod_eq (m fuel a e : Nat) (h : e < 2 ^ fuel) : powMod m fuel a e = a ^ e % m := by
  induction fuel generalizing a e with
  | zero =>
    have : e = 0 := by simpa using h
    simp [powMod, this]
  | succ fuel ih =>
    have hhalf : e / 2 < 2 ^ fuel := by rw [Nat.pow_succ] at h; omega
    have hsq : (a * a % m) ^ (e / 2) % m = a ^ (2 * (e / 2)) % m := by
      rw [← Nat.pow_mod, pow_mul, pow_two]
    rw [powMod, ih _ _ hhalf, hsq]
    split_ifs with hodd
    · have he : e = 2 * (e / 2) + 1 := by omega
      conv_rhs => rw [he, pow_succ, Nat.mul_comm, Nat.mul_mod]
      rw [Nat.mul_mod a (a ^ (2 * (e / 2)) % m) m, Nat.mod_mod]
    · have he : e = 2 * (e / 2) := by omega
      conv_rhs => rw [he]

/-- A certificate of Lucas for `q`: the base `g`, and the primes of `q - 1`. -/
theorem prime_of_certificate (q g : Nat) (factors : List Nat) (fuel : Nat)
    (hq : 1 < q) (hfuel : q ≤ 2 ^ fuel) (hprime : ∀ r ∈ factors, r.Prime)
    (hpower : ∃ product : List Nat, (∀ r ∈ product, r ∈ factors) ∧ q - 1 = product.prod)
    (hone : powMod q fuel g (q - 1) = 1)
    (hne : ∀ r ∈ factors, powMod q fuel g ((q - 1) / r) ≠ 1) : q.Prime := by
  have cast_pow : ∀ e, e < 2 ^ fuel → ((g : ZMod q) ^ e = 1 ↔ powMod q fuel g e = 1) := by
    intro e he
    rw [powMod_eq _ _ _ _ he]
    have h1 : (1 : Nat) % q = 1 := Nat.mod_eq_of_lt hq
    have := ZMod.natCast_eq_natCast_iff (g ^ e) 1 q
    rw [Nat.cast_pow, Nat.cast_one] at this
    rw [this, Nat.ModEq, h1]
  have hlt : q - 1 < 2 ^ fuel := by omega
  refine lucas_primality q (g : ZMod q) ((cast_pow _ hlt).mpr hone) ?_
  intro r hr hdvd
  obtain ⟨product, hmem, hprod⟩ := hpower
  rw [hprod] at hdvd
  obtain ⟨f, hf, hrf⟩ := (Nat.Prime.prime hr).dvd_prod_iff.mp hdvd
  have hreq : r = f := (Nat.prime_dvd_prime_iff_eq hr (hprime f (hmem f hf))).mp hrf
  subst hreq
  intro h
  exact hne r (hmem r hf) ((cast_pow _ (lt_of_le_of_lt (Nat.div_le_self _ _) hlt)).mp h)

theorem prime_13331831 : Nat.Prime 13331831 := by
  refine prime_of_certificate _ 13 [2, 5, 971, 1373] 24 (by decide) (by decide +kernel) ?_
    ⟨[2, 5, 971, 1373], by decide, by decide +kernel⟩ (by decide +kernel) (by decide +kernel)
  intro r hr
  simp only [List.mem_cons, List.not_mem_nil, or_false] at hr
  rcases hr with rfl | rfl | rfl | rfl
  · norm_num
  · norm_num
  · norm_num
  · norm_num

theorem prime_173378833005251801 : Nat.Prime 173378833005251801 := by
  refine prime_of_certificate _ 6 [2, 5, 2621, 24809, 13331831] 58 (by decide) (by decide +kernel) ?_
    ⟨[2, 2, 2, 5, 5, 2621, 24809, 13331831], by decide, by decide +kernel⟩ (by decide +kernel) (by decide +kernel)
  intro r hr
  simp only [List.mem_cons, List.not_mem_nil, or_false] at hr
  rcases hr with rfl | rfl | rfl | rfl | rfl
  · norm_num
  · norm_num
  · norm_num
  · norm_num
  · exact prime_13331831

theorem prime_22149492674086928081353 : Nat.Prime 22149492674086928081353 := by
  refine prime_of_certificate _ 5 [2, 3, 5323, 173378833005251801] 75 (by decide) (by decide +kernel) ?_
    ⟨[2, 2, 2, 3, 5323, 173378833005251801], by decide, by decide +kernel⟩ (by decide +kernel) (by decide +kernel)
  intro r hr
  simp only [List.mem_cons, List.not_mem_nil, or_false] at hr
  rcases hr with rfl | rfl | rfl | rfl
  · norm_num
  · norm_num
  · norm_num
  · exact prime_173378833005251801

theorem prime_132896956044521568488119 : Nat.Prime 132896956044521568488119 := by
  refine prime_of_certificate _ 6 [2, 3, 22149492674086928081353] 77 (by decide) (by decide +kernel) ?_
    ⟨[2, 3, 22149492674086928081353], by decide, by decide +kernel⟩ (by decide +kernel) (by decide +kernel)
  intro r hr
  simp only [List.mem_cons, List.not_mem_nil, or_false] at hr
  rcases hr with rfl | rfl | rfl
  · norm_num
  · norm_num
  · exact prime_22149492674086928081353

theorem prime_1206781 : Nat.Prime 1206781 := by
  refine prime_of_certificate _ 10 [2, 3, 5, 20113] 21 (by decide) (by decide +kernel) ?_
    ⟨[2, 2, 3, 5, 20113], by decide, by decide +kernel⟩ (by decide +kernel) (by decide +kernel)
  intro r hr
  simp only [List.mem_cons, List.not_mem_nil, or_false] at hr
  rcases hr with rfl | rfl | rfl | rfl
  · norm_num
  · norm_num
  · norm_num
  · norm_num

theorem prime_7240687 : Nat.Prime 7240687 := by
  refine prime_of_certificate _ 3 [2, 3, 1206781] 23 (by decide) (by decide +kernel) ?_
    ⟨[2, 3, 1206781], by decide, by decide +kernel⟩ (by decide +kernel) (by decide +kernel)
  intro r hr
  simp only [List.mem_cons, List.not_mem_nil, or_false] at hr
  rcases hr with rfl | rfl | rfl
  · norm_num
  · norm_num
  · exact prime_1206781

theorem prime_107590001 : Nat.Prime 107590001 := by
  refine prime_of_certificate _ 3 [2, 5, 7, 29, 53] 27 (by decide) (by decide +kernel) ?_
    ⟨[2, 2, 2, 2, 5, 5, 5, 5, 7, 29, 53], by decide, by decide +kernel⟩ (by decide +kernel) (by decide +kernel)
  intro r hr
  simp only [List.mem_cons, List.not_mem_nil, or_false] at hr
  rcases hr with rfl | rfl | rfl | rfl | rfl
  · norm_num
  · norm_num
  · norm_num
  · norm_num
  · norm_num

theorem prime_255515944373312847190720520512484175977 : Nat.Prime 255515944373312847190720520512484175977 := by
  refine prime_of_certificate _ 3 [2, 7, 11, 1627, 2657, 4423, 41201, 96557, 7240687, 107590001] 128 (by decide) (by decide +kernel) ?_
    ⟨[2, 2, 2, 7, 7, 11, 1627, 2657, 4423, 41201, 96557, 7240687, 107590001], by decide, by decide +kernel⟩ (by decide +kernel) (by decide +kernel)
  intro r hr
  simp only [List.mem_cons, List.not_mem_nil, or_false] at hr
  rcases hr with rfl | rfl | rfl | rfl | rfl | rfl | rfl | rfl | rfl | rfl
  · norm_num
  · norm_num
  · norm_num
  · norm_num
  · norm_num
  · norm_num
  · norm_num
  · norm_num
  · exact prime_7240687
  · exact prime_107590001

theorem prime_205115282021455665897114700593932402728804164701536103180137503955397371 : Nat.Prime 205115282021455665897114700593932402728804164701536103180137503955397371 := by
  refine prime_of_certificate _ 10 [2, 3, 5, 29, 31, 7723, 132896956044521568488119, 255515944373312847190720520512484175977] 237 (by decide) (by decide +kernel) ?_
    ⟨[2, 3, 5, 29, 29, 31, 7723, 132896956044521568488119, 255515944373312847190720520512484175977], by decide, by decide +kernel⟩ (by decide +kernel) (by decide +kernel)
  intro r hr
  simp only [List.mem_cons, List.not_mem_nil, or_false] at hr
  rcases hr with rfl | rfl | rfl | rfl | rfl | rfl | rfl | rfl
  · norm_num
  · norm_num
  · norm_num
  · norm_num
  · norm_num
  · norm_num
  · exact prime_132896956044521568488119
  · exact prime_255515944373312847190720520512484175977

theorem fieldPrime_prime : Nat.Prime Sys2Proof.Machine.fieldPrime := by
  refine prime_of_certificate _ 3 [2, 3, 7, 13441, 205115282021455665897114700593932402728804164701536103180137503955397371] 256 (by decide) (by decide +kernel) ?_
    ⟨[2, 3, 7, 13441, 205115282021455665897114700593932402728804164701536103180137503955397371], by decide, by decide +kernel⟩ (by decide +kernel) (by decide +kernel)
  intro r hr
  simp only [List.mem_cons, List.not_mem_nil, or_false] at hr
  rcases hr with rfl | rfl | rfl | rfl | rfl
  · norm_num
  · norm_num
  · norm_num
  · norm_num
  · exact prime_205115282021455665897114700593932402728804164701536103180137503955397371

theorem prime_4681609 : Nat.Prime 4681609 := by
  refine prime_of_certificate _ 23 [2, 3, 97, 2011] 23 (by decide) (by decide +kernel) ?_
    ⟨[2, 2, 2, 3, 97, 2011], by decide, by decide +kernel⟩ (by decide +kernel) (by decide +kernel)
  intro r hr
  simp only [List.mem_cons, List.not_mem_nil, or_false] at hr
  rcases hr with rfl | rfl | rfl | rfl
  · norm_num
  · norm_num
  · norm_num
  · norm_num

theorem prime_107361793816595537 : Nat.Prime 107361793816595537 := by
  refine prime_of_certificate _ 3 [2, 16699, 85831, 4681609] 57 (by decide) (by decide +kernel) ?_
    ⟨[2, 2, 2, 2, 16699, 85831, 4681609], by decide, by decide +kernel⟩ (by decide +kernel) (by decide +kernel)
  intro r hr
  simp only [List.mem_cons, List.not_mem_nil, or_false] at hr
  rcases hr with rfl | rfl | rfl | rfl
  · norm_num
  · norm_num
  · norm_num
  · exact prime_4681609

theorem prime_44706919 : Nat.Prime 44706919 := by
  refine prime_of_certificate _ 6 [2, 3, 797, 9349] 26 (by decide) (by decide +kernel) ?_
    ⟨[2, 3, 797, 9349], by decide, by decide +kernel⟩ (by decide +kernel) (by decide +kernel)
  intro r hr
  simp only [List.mem_cons, List.not_mem_nil, or_false] at hr
  rcases hr with rfl | rfl | rfl | rfl
  · norm_num
  · norm_num
  · norm_num
  · norm_num

theorem prime_174723607534414371449 : Nat.Prime 174723607534414371449 := by
  refine prime_of_certificate _ 3 [2, 17, 59, 4051, 120233, 44706919] 68 (by decide) (by decide +kernel) ?_
    ⟨[2, 2, 2, 17, 59, 4051, 120233, 44706919], by decide, by decide +kernel⟩ (by decide +kernel) (by decide +kernel)
  intro r hr
  simp only [List.mem_cons, List.not_mem_nil, or_false] at hr
  rcases hr with rfl | rfl | rfl | rfl | rfl | rfl
  · norm_num
  · norm_num
  · norm_num
  · norm_num
  · norm_num
  · exact prime_44706919

theorem prime_545358713 : Nat.Prime 545358713 := by
  refine prime_of_certificate _ 5 [2, 41, 59, 28181] 30 (by decide) (by decide +kernel) ?_
    ⟨[2, 2, 2, 41, 59, 28181], by decide, by decide +kernel⟩ (by decide +kernel) (by decide +kernel)
  intro r hr
  simp only [List.mem_cons, List.not_mem_nil, or_false] at hr
  rcases hr with rfl | rfl | rfl | rfl
  · norm_num
  · norm_num
  · norm_num
  · norm_num

theorem prime_1627771 : Nat.Prime 1627771 := by
  refine prime_of_certificate _ 3 [2, 3, 5, 29, 1871] 21 (by decide) (by decide +kernel) ?_
    ⟨[2, 3, 5, 29, 1871], by decide, by decide +kernel⟩ (by decide +kernel) (by decide +kernel)
  intro r hr
  simp only [List.mem_cons, List.not_mem_nil, or_false] at hr
  rcases hr with rfl | rfl | rfl | rfl | rfl
  · norm_num
  · norm_num
  · norm_num
  · norm_num
  · norm_num

theorem prime_297159362677 : Nat.Prime 297159362677 := by
  refine prime_of_certificate _ 2 [2, 3, 11, 461, 1627771] 39 (by decide) (by decide +kernel) ?_
    ⟨[2, 2, 3, 3, 11, 461, 1627771], by decide, by decide +kernel⟩ (by decide +kernel) (by decide +kernel)
  intro r hr
  simp only [List.mem_cons, List.not_mem_nil, or_false] at hr
  rcases hr with rfl | rfl | rfl | rfl | rfl
  · norm_num
  · norm_num
  · norm_num
  · norm_num
  · exact prime_1627771

theorem prime_29047611873442575647497758179 : Nat.Prime 29047611873442575647497758179 := by
  refine prime_of_certificate _ 2 [2, 293, 305873, 545358713, 297159362677] 95 (by decide) (by decide +kernel) ?_
    ⟨[2, 293, 305873, 545358713, 297159362677], by decide, by decide +kernel⟩ (by decide +kernel) (by decide +kernel)
  intro r hr
  simp only [List.mem_cons, List.not_mem_nil, or_false] at hr
  rcases hr with rfl | rfl | rfl | rfl | rfl
  · norm_num
  · norm_num
  · norm_num
  · exact prime_545358713
  · exact prime_297159362677

theorem prime_341948486974166000522343609283189 : Nat.Prime 341948486974166000522343609283189 := by
  refine prime_of_certificate _ 2 [2, 3, 109, 29047611873442575647497758179] 109 (by decide) (by decide +kernel) ?_
    ⟨[2, 2, 3, 3, 3, 109, 29047611873442575647497758179], by decide, by decide +kernel⟩ (by decide +kernel) (by decide +kernel)
  intro r hr
  simp only [List.mem_cons, List.not_mem_nil, or_false] at hr
  rcases hr with rfl | rfl | rfl | rfl
  · norm_num
  · norm_num
  · norm_num
  · exact prime_29047611873442575647497758179

theorem groupOrder_prime : Nat.Prime Sys2Proof.Machine.groupOrder := by
  refine prime_of_certificate _ 7 [2, 3, 149, 631, 107361793816595537, 174723607534414371449, 341948486974166000522343609283189] 256 (by decide) (by decide +kernel) ?_
    ⟨[2, 2, 2, 2, 2, 2, 3, 149, 631, 107361793816595537, 174723607534414371449, 341948486974166000522343609283189], by decide, by decide +kernel⟩ (by decide +kernel) (by decide +kernel)
  intro r hr
  simp only [List.mem_cons, List.not_mem_nil, or_false] at hr
  rcases hr with rfl | rfl | rfl | rfl | rfl | rfl | rfl
  · norm_num
  · norm_num
  · norm_num
  · norm_num
  · exact prime_107361793816595537
  · exact prime_174723607534414371449
  · exact prime_341948486974166000522343609283189

/-- `(-7) ^ ((p - 1) / 3)` is not 1: `-7` is no cube modulo `p`. -/
theorem minusSeven_power : powMod fieldPrime 256 (fieldPrime - 7) ((fieldPrime - 1) / 3) ≠ 1 := by decide +kernel

/-- No `x` satisfies `x^3 + 7 = 0` modulo `p`: the curve has no point with `y = 0` (R126). -/
theorem no_root_of_curve (x : Nat) : (x * x * x + 7) % fieldPrime ≠ 0 := by
  intro h
  have : Fact fieldPrime.Prime := ⟨fieldPrime_prime⟩
  have hcast : ((x : ZMod fieldPrime)) ^ 3 = ((fieldPrime - 7 : Nat) : ZMod fieldPrime) := by
    have h0 : (((x * x * x + 7 : Nat)) : ZMod fieldPrime) = 0 :=
      (ZMod.natCast_eq_zero_iff _ _).mpr (Nat.dvd_of_mod_eq_zero h)
    have h7 : ((fieldPrime - 7 : Nat) : ZMod fieldPrime) = -7 := by
      rw [Nat.cast_sub (by decide)]
      simp
    rw [h7]
    push_cast at h0
    linear_combination h0
  have hx : (x : ZMod fieldPrime) ≠ 0 := by
    intro hx0
    rw [hx0] at hcast
    have h7 : ((fieldPrime - 7 : Nat) : ZMod fieldPrime) = 0 := by
      rw [← hcast]; simp
    rw [ZMod.natCast_eq_zero_iff] at h7
    exact absurd (Nat.le_of_dvd (by decide) h7) (by decide)
  have hpow : (((fieldPrime - 7 : Nat)) : ZMod fieldPrime) ^ ((fieldPrime - 1) / 3) = 1 := by
    rw [← hcast, ← pow_mul, show 3 * ((fieldPrime - 1) / 3) = fieldPrime - 1 by decide]
    exact ZMod.pow_card_sub_one_eq_one hx
  have hnat := (ZMod.natCast_eq_natCast_iff ((fieldPrime - 7) ^ ((fieldPrime - 1) / 3)) 1 fieldPrime).mp
    (by rw [Nat.cast_pow, hpow, Nat.cast_one])
  apply minusSeven_power
  rw [powMod_eq _ _ _ _ (by decide +kernel)]
  rw [Nat.ModEq, Nat.mod_eq_of_lt (show 1 < fieldPrime by decide)] at hnat
  exact hnat

end Sys2Proof.Laws
end

