-- ==== Sys2Proof/Laws/Window.lean ====
section
/-! SUPPORT. The address map: every address of a location names that location, and no other address does (R61). -/

namespace Sys2Proof.Machine

theorem locate_scalarAddress : ∀ (i : Fin 4) (j : Fin 8), locate (scalarAddress i j) = .scalarWord i j := by
  decide +kernel

theorem locate_pointXAddress : ∀ (i : Fin 4) (j : Fin 8), locate (pointXAddress i j) = .pointX i j := by
  decide +kernel

theorem locate_pointYAddress : ∀ (i : Fin 4) (j : Fin 8), locate (pointYAddress i j) = .pointY i j := by
  decide +kernel

theorem locate_pointTagAddress : ∀ i : Fin 4, locate (pointTagAddress i) = .pointTag i := by decide +kernel

theorem locate_constantAddress : ∀ (k : Fin 6) (j : Fin 8), locate (constantAddress k j) = .constantWord k j := by
  decide +kernel

theorem locate_ibufAddress : ∀ m : Fin 256, locate (ibufAddress m) = .ibufWord m := by decide +kernel

theorem locate_obufAddress : ∀ m : Fin 256, locate (obufAddress m) = .obufWord m := by decide +kernel

/-- A mapped address is the address of the location it names, checked on all 4096 addresses. -/
theorem addressOf_locate_nat :
    ∀ high low : Fin 64, locate (BitVec.ofNat 12 (64 * high.val + low.val)) ≠ .unmapped →
      addressOf (locate (BitVec.ofNat 12 (64 * high.val + low.val))) =
        some (BitVec.ofNat 12 (64 * high.val + low.val)) := by
  decide +kernel

/-- A mapped address is the address of the location it names. -/
theorem addressOf_locate {a : WindowAddress} (h : locate a ≠ .unmapped) : addressOf (locate a) = some a := by
  have ha := a.isLt
  have key := addressOf_locate_nat ⟨a.toNat / 64, by omega⟩ ⟨a.toNat % 64, by omega⟩
  have hsum : 64 * (a.toNat / 64) + a.toNat % 64 = a.toNat := by omega
  simp only [hsum, BitVec.ofNat_toNat, BitVec.setWidth_eq] at key
  exact key h

/-- Two addresses of one mapped location are the same address. -/
theorem locate_injective {a b : WindowAddress} (h : locate a = locate b) (ha : locate a ≠ .unmapped) : a = b := by
  have hb : addressOf (locate a) = some b := by rw [h]; exact addressOf_locate (h ▸ ha)
  rw [addressOf_locate ha] at hb
  exact Option.some.inj hb

end Sys2Proof.Machine
end

