-- ==== Sys2Proof/Machine/Assembly.lean ====
section
/-! DEFINITION. The assembler text of a command (R100): a mnemonic and comma-separated operands, destination first. -/

namespace Sys2Proof.Machine

/-- The mnemonic of a command (R96). -/
def mnemonic : Instr → String
  | .modinv _ _ => "MODINV"
  | .padd _ _ _ => "PADD"
  | .pdbl _ _ => "PDBL"
  | .smul _ _ _ => "SMUL"
  | .oncurve _ => "ONCURVE"
  | .keyvalid _ => "KEYVALID"
  | .pldg _ => "PLDG"
  | .haInit => "HA.INIT"
  | .haUpdate => "HA.UPDATE"
  | .haDigest => "HA.DIGEST"
  | .hbHash => "HB.HASH"
  | .b58enc => "B58ENC"
  | .b58dec => "B58DEC"
  | .b58cenc => "B58CENC"
  | .b58cdec => "B58CDEC"
  | .derivepub _ _ _ => "DERIVEPUB"
  | .deriveaddr => "DERIVEADDR"
  | .wifenc _ _ _ => "WIFENC"
  | .wifdec _ => "WIFDEC"

/-- `s0` to `s3` (R100). -/
def scalarName : RegIndex → String
  | 0 => "s0"
  | 1 => "s1"
  | 2 => "s2"
  | 3 => "s3"

/-- `p0` to `p3` (R100). -/
def pointName : RegIndex → String
  | 0 => "p0"
  | 1 => "p1"
  | 2 => "p2"
  | 3 => "p3"

/-- The word for the `c` flag (R100). -/
def compressionName (c : Bool) : String := if c then "c" else "u"

/-- The word for the `t` flag (R100). -/
def networkName (t : Bool) : String := if t then "test" else "main"

/-- The operands of a command, in the order of R100. -/
def operandNames : Instr → List String
  | .modinv rd ra => [scalarName rd, scalarName ra]
  | .padd rd ra rb => [pointName rd, pointName ra, pointName rb]
  | .pdbl rd ra => [pointName rd, pointName ra]
  | .smul rd ra rb => [pointName rd, pointName ra, scalarName rb]
  | .oncurve ra => [pointName ra]
  | .keyvalid ra => [scalarName ra]
  | .pldg rd => [pointName rd]
  | .haInit => []
  | .haUpdate => []
  | .haDigest => []
  | .hbHash => []
  | .b58enc => []
  | .b58dec => []
  | .b58cenc => []
  | .b58cdec => []
  | .derivepub rd ra c => [pointName rd, scalarName ra, compressionName c]
  | .deriveaddr => []
  | .wifenc ra c t => [scalarName ra, compressionName c, networkName t]
  | .wifdec rd => [scalarName rd]

/-- The line of assembly that stands for one write of the command's word to `CMD` (R100). -/
def assembly (i : Instr) : String :=
  match operandNames i with
  | [] => mnemonic i
  | x :: rest => mnemonic i ++ " " ++ rest.foldl (fun line operand => line ++ ", " ++ operand) x

end Sys2Proof.Machine
end

