-- ==== Sys2Proof/Machine/HostMacros.lean ====
section
/-! DEFINITION. The HOST's pseudo-instructions (R101): lists of events for the agenda, over the two moves of R62.
`wait` and `run` take the number of polls that still see `BUSY = 1`, which the spec leaves open (R73, R266);
`cpob` takes the state whose output it copies, because its writes carry the words it reads (log 20). -/

namespace Sys2Proof.Machine

/-- `wr a, w` (R101). -/
def macroWr (a : WindowAddress) (w : Word) : List Event := [.hostWrite a w]

/-- `rd a` (R101): the word read is then in `rdata`. -/
def macroRd (a : WindowAddress) : List Event := [.hostRead a]

/-- `wait` (R101) in a run where the CORE step falls after `polls` reads of `STATUS`. -/
def macroWait (polls : Nat) : List Event :=
  List.replicate polls (.hostRead 0x004) ++ [.core, .hostRead 0x004]

/-- The eight writes of a 256-bit quantity to the words at `address 0` to `address 7` (R101). -/
def macroWords (address : Fin 8 → WindowAddress) (v : Scalar) : List Event :=
  (List.finRange 8).map (fun j => .hostWrite (address j) (scalarWord v j))

/-- `lds sI, v` (R101). -/
def macroLds (i : RegIndex) (v : Scalar) : List Event := macroWords (scalarAddress i) v

/-- `ldp pI, x, y` (R101): the two coordinates, then 0 to the tag. -/
def macroLdp (i : RegIndex) (x y : Scalar) : List Event :=
  macroWords (pointXAddress i) x ++ macroWords (pointYAddress i) y ++ [.hostWrite (pointTagAddress i) 0]

/-- `ldinf pI` (R101). -/
def macroLdinf (i : RegIndex) : List Event := [.hostWrite (pointTagAddress i) 1]

/-- `ldib b` (R101): the bytes, padded with zero bytes to whole words, then the length to `ILEN`. -/
def macroLdib (b : Bytes) : List Event :=
  (List.range ((b.length + 3) / 4)).map
    (fun m => .hostWrite (BitVec.ofNat 12 (0x800 + 4 * m)) (BitVec.ofNat 32 (intLe ((b.drop (4 * m)).take 4)))) ++
  [.hostWrite 0x010 (BitVec.ofNat 32 b.length)]

/-- `cpob` (R101) on the idle state `s`: read `OLEN`, copy the output words, write the length to `ILEN`. -/
def macroCpob (s : State) : List Event :=
  [.hostRead 0x014] ++
  (List.range ((s.olen.toNat + 3) / 4)).flatMap
    (fun m =>
      [.hostRead (BitVec.ofNat 12 (0xC00 + 4 * m)),
       .hostWrite (BitVec.ofNat 12 (0x800 + 4 * m)) (s.windowRead (BitVec.ofNat 12 (0xC00 + 4 * m)))]) ++
  [.hostWrite 0x010 s.olenWord]

/-- `run <command>` (R101): the write of the command's word to `CMD`, then `wait`. -/
def macroRun (i : Instr) (polls : Nat) : List Event := .hostWrite 0x000 (encode i) :: macroWait polls

end Sys2Proof.Machine
end

