-- ==== Sys2Proof/Tests/Slice0.lean ====
section
/-! SUPPORT. Tests of the model: each runs one step or one function on values that the spec writes out (95_test_vectors,
named in the comments as there), and, below, one witness for every statement that has hypotheses. -/

namespace Sys2Proof.Tests

-- One theorem at a time: many kernel evaluations at once take a thread each.
set_option Elab.async false

open Sys2Proof Sys2Proof.Machine

/-! Helpers. -/

/-- The command ends in a next state that satisfies `P`. -/
def ran (i : Instr) (s : State) (P : State → Bool) : Bool :=
  match exec i s with
  | .next t => P t
  | .fault _ => false
  | .refused _ => false

theorem ran_elim {i : Instr} {s : State} {P : State → Bool} (h : ran i s P = true) :
    ∃ t, exec i s = .next t ∧ P t = true := by
  unfold ran at h
  split at h
  · exact ⟨_, ‹_›, h⟩
  · cases h
  · cases h

/-- The command ends `Ok` with the byte string `b` as its output. -/
def outputs (i : Instr) (s : State) (b : Bytes) : Bool :=
  ran i s (fun t => t.done && t.memRead .obuf t.olen.toNat == b)

/-- The command ends `Fail` with code `c`, and changes no register, output length or flag. -/
def failsWith (i : Instr) (s : State) (c : Nat) : Bool :=
  ran i s (fun t => t.err && t.errcode == BitVec.ofNat 8 c && t.S == s.S && t.PT == s.PT && t.olen == s.olen &&
    t.flags == s.flags && t.ha == s.ha)

/-- The reset state with `S[i] = v`. -/
def withS (i : RegIndex) (v : Nat) (s : State := State.reset) : State := s.setScalar i (BitVec.ofNat 256 v)

/-- The state with the pair `(x, y)` in `PT[i]`. -/
def withP (i : RegIndex) (x y : Nat) (s : State := State.reset) : State :=
  s.setPointRegister i ⟨false, BitVec.ofNat 256 x, BitVec.ofNat 256 y⟩

/-- The reset state with the string in `IBUF` and its length in `ILEN`. -/
def withInput (b : Bytes) (s : State := State.reset) : State :=
  { s with ibuf := Memory.writeBytes [] 0 b, ilen := BitVec.ofNat 9 b.length }

/-- The state with these buffer sizes. -/
def withSizes (ibuf obuf : Nat) (s : State := State.reset) : State := { s with sizes := ⟨ibuf, obuf⟩ }

/-- The state with an accumulator that has just been initialised. -/
def streaming (s : State := State.reset) : State := { s with ha := HashAccumulator.fresh }

/-- The state with these events to come. -/
def expecting (agenda : List Event) (s : State := State.reset) : State := { s with agenda := agenda }

/-- `2G`, `3G` and the opposite of the generator (TC0). -/
def twoGx : Nat := 0xC6047F9441ED7D6D3045406E95C07CD85C778E4B8CEF3CA7ABAC09B95C709EE5
def twoGy : Nat := 0x1AE168FEA63DC339A3C58419466CEAEEF7F632653266D0E1236431A950CFE52A
def threeGx : Nat := 0xF9308A019258C31049344F85F89D5229B531C845836F99B08601F113BCE036F9
def threeGy : Nat := 0x388F7B0F632DE8140FE337E62A37F3566500A99934C2231B6CB9FD7584B8E672
def minusGy : Nat := 0xB7C52588D95C3B9AA25B0403F1EEF75702E84BB7597AABE663B82F6F04EF2777

/-! The transactions that WellFormed refuses (R63), each refused by the step too. -/

theorem test_narrow_write_is_ill_formed : (HostMove.write .bits8 0x100 0).wellFormed = false := by decide

theorem test_narrow_read_is_ill_formed : (HostMove.read .bits16 0x004).fullWidth = false := by decide

theorem test_misaligned_move_is_ill_formed : (HostMove.write .bits32 0x102 0).aligned = false := by decide

theorem test_misaligned_event_is_ill_formed : (Event.hostRead 0x003).wellFormed = false := by decide

theorem test_aligned_move_is_well_formed : (HostMove.read .bits32 0xFFC).wellFormed = true := by decide

theorem test_narrow_move_is_refused :
    step (expecting [.host (.write .bits8 0x100 0)]) = .refused .narrowTransaction := rfl

theorem test_misaligned_move_is_refused :
    step (expecting [.hostRead 0x006]) = .refused .misalignedTransaction := rfl

/-! Decoding: the words of TE1 and R96, written bit by bit as R91 draws them (bit 31 first, the groups of R92). -/

theorem test_decode_modinv : decode 0b00000000000000_0_0_00_00_01_00_00000001#32 = .ok (.modinv 0 1) := by decide

theorem test_decode_padd : decode 0b00000000000000_0_0_00_01_00_10_00000010#32 = .ok (.padd 2 0 1) := by decide

theorem test_decode_pdbl : decode 0b00000000000000_0_0_00_00_00_01_00000011#32 = .ok (.pdbl 1 0) := by decide

theorem test_decode_smul : decode 0b00000000000000_0_0_00_11_00_10_00000100#32 = .ok (.smul 2 0 3) := by decide

theorem test_decode_oncurve : decode 0b00000000000000_0_0_00_00_11_00_00000101#32 = .ok (.oncurve 3) := by decide

theorem test_decode_keyvalid : decode 0b00000000000000_0_0_00_00_10_00_00000110#32 = .ok (.keyvalid 2) := by decide

theorem test_decode_pldg : decode 0b00000000000000_0_0_00_00_00_11_00000111#32 = .ok (.pldg 3) := by decide

theorem test_decode_haInit : decode 0b00000000000000_0_0_00_00_00_00_00010000#32 = .ok .haInit := by decide

theorem test_decode_haUpdate : decode 0b00000000000000_0_0_00_00_00_00_00010001#32 = .ok .haUpdate := by decide

theorem test_decode_haDigest : decode 0b00000000000000_0_0_00_00_00_00_00010010#32 = .ok .haDigest := by decide

theorem test_decode_hbHash : decode 0b00000000000000_0_0_00_00_00_00_00011000#32 = .ok .hbHash := by decide

theorem test_decode_b58enc : decode 0b00000000000000_0_0_00_00_00_00_00100000#32 = .ok .b58enc := by decide

theorem test_decode_b58dec : decode 0b00000000000000_0_0_00_00_00_00_00100001#32 = .ok .b58dec := by decide

theorem test_decode_b58cenc : decode 0b00000000000000_0_0_00_00_00_00_00100010#32 = .ok .b58cenc := by decide

theorem test_decode_b58cdec : decode 0b00000000000000_0_0_00_00_00_00_00100011#32 = .ok .b58cdec := by decide

theorem test_decode_derivepub :
    decode 0b00000000000000_0_1_00_00_11_11_00110000#32 = .ok (.derivepub 3 3 true) ∧
      decode 0b00000000000000_0_0_00_00_10_01_00110000#32 = .ok (.derivepub 1 2 false) := by decide

theorem test_decode_deriveaddr : decode 0b00000000000000_0_0_00_00_00_00_00110001#32 = .ok .deriveaddr := by decide

theorem test_decode_wifenc :
    decode 0b00000000000000_1_1_00_00_01_00_00110010#32 = .ok (.wifenc 1 true true) ∧
      decode 0b00000000000000_1_0_00_00_11_00_00110010#32 = .ok (.wifenc 3 false true) := by decide

theorem test_decode_wifdec : decode 0b00000000000000_0_0_00_00_00_11_00110011#32 = .ok (.wifdec 3) := by decide

/-- The illegal words of TE2 with an opcode that the map does not list. -/
theorem test_unlisted_opcodes :
    ∀ w ∈ ([0x00, 0xFF, 0x08, 0x13, 0x19, 0x24, 0x34] : List Byte),
      decode (w.zeroExtend 32) = .error (.unlistedOpcode w) := by decide

/-- The illegal words of TE2 with a 1 in a bit that the format requires to be 0. -/
theorem test_reserved_bits :
    ([0x110, 0x1003, 0x105, 0x433, 0x4002, 0x8002, 0x10004, 0x20030, 0x1030, 0x40032, 0x132, 0x80000001, 0x10018].all
      fun w => decide (decode w = .error (.nonzeroReservedBits (opcodeField w)))) = true := by decide +kernel

/-- A table word with a bit above bit 31 is no command (R90). -/
theorem test_long_table_word : decodeTableWord 64 (2 ^ 32 + 0x07) = none ∧ decodeTableWord 32 0x07 = some (.pldg 0) := by
  decide

/-! The transactions (TW1 to TW3, TR1). -/

theorem test_constant_words :
    State.reset.windowRead 0x404 = 0xFFFFFFFE ∧ State.reset.windowRead 0x42C = 0xBAAEDCE6 ∧
      State.reset.windowRead 0x45C = 0x79BE667E ∧ State.reset.windowRead 0x460 = 0xFB10D4B8 ∧
      State.reset.windowRead 0x49C = 0 ∧ State.reset.windowRead 0x4A0 = 7 ∧ State.reset.windowRead 0x4C0 = 0 := by
  decide +kernel

theorem test_scalar_words :
    ((State.reset.hostWrite 0x100 0xDDCCBBAA).hostWrite 0x11C 0x11223344).S[0] =
      0x11223344000000000000000000000000000000000000000000000000DDCCBBAA := by decide +kernel

theorem test_input_word_lanes :
    (State.reset.hostWrite 0x800 0x00636261).memRead .ibuf 3 = [0x61, 0x62, 0x63] := by decide +kernel

/-- R64: of the word at bytes 128 to 131 of a buffer of 130 bytes, two lanes store and two read 0. -/
theorem test_write_across_the_buffer_end :
    ((withSizes 130 128).hostWrite 0x880 0x12345678).windowRead 0x880 = 0x00005678 := by decide +kernel

theorem test_write_beyond_input_buffer : (State.reset.hostWrite 0x880 0x12345678).ibuf = [] := by decide +kernel

theorem test_launch_is_ignored_while_busy :
    ((State.reset.hostWrite 0x000 0x007).hostWrite 0x000 0x107).cmdl = 0x007 := by decide +kernel

theorem test_reset_window :
    State.reset.windowRead 0x004 = 0 ∧ State.reset.windowRead 0x240 = 1 ∧ State.reset.windowRead 0x3C0 = 1 ∧
      State.reset.windowRead 0x17C = 0 := by decide +kernel

theorem test_assembly_text :
    assembly (.smul 1 0 0) = "SMUL p1, p0, s0" ∧ assembly (.wifenc 1 true true) = "WIFENC s1, c, test" ∧
      assembly .haInit = "HA.INIT" := by decide +kernel

theorem test_ldib_expansion :
    macroLdib [0x61, 0x62, 0x63] = [.hostWrite 0x800 0x00636261, .hostWrite 0x010 3] := by decide +kernel

/-! The curve engine (TC1 to TC4). -/

theorem test_modinv_reduces_operand :
    ran (.modinv 0 1) (withS 1 (fieldPrime + 2)) (fun t => t.done && t.S[0] ==
      0x7FFFFFFFFFFFFFFFFFFFFFFFFFFFFFFFFFFFFFFFFFFFFFFFFFFFFFFF7FFFFE18) = true := by decide +kernel

theorem test_modinv_of_prime_fails : failsWith (.modinv 0 1) (withS 1 fieldPrime) 3 = true := by decide +kernel

theorem test_padd_chord :
    ran (.padd 3 1 0) (withP 1 twoGx twoGy (withP 0 generatorX generatorY))
      (fun t => t.done && t.PT[3] == ⟨false, BitVec.ofNat 256 threeGx, BitVec.ofNat 256 threeGy⟩) = true := by
  decide +kernel

theorem test_padd_opposites :
    ran (.padd 0 0 1) (withP 1 generatorX minusGy (withP 0 generatorX generatorY))
      (fun t => t.done && t.PT[0] == ⟨true, 0, 0⟩) = true := by decide +kernel

theorem test_pdbl_tangent :
    ran (.pdbl 0 0) (withP 0 generatorX generatorY)
      (fun t => t.done && t.PT[0] == ⟨false, BitVec.ofNat 256 twoGx, BitVec.ofNat 256 twoGy⟩) = true := by
  decide +kernel

theorem test_pdbl_flat_point_fails : failsWith (.pdbl 1 0) (withP 0 5 0) 3 = true := by decide +kernel

theorem test_smul_three :
    ran (.smul 1 0 2) (withS 2 3 (withP 0 generatorX generatorY))
      (fun t => t.done && t.PT[1] == ⟨false, BitVec.ofNat 256 threeGx, BitVec.ofNat 256 threeGy⟩) = true := by
  decide +kernel

theorem test_smul_flat_point_fails : failsWith (.smul 1 0 2) (withP 0 5 0) 3 = true := by decide +kernel

theorem test_oncurve_generator :
    ran (.oncurve 2) (withP 2 generatorX generatorY) (fun t => t.done && t.flags == ⟨true, false, 0⟩) = true := by
  decide +kernel

theorem test_oncurve_infinity :
    ran (.oncurve 2) { State.reset with flags := ⟨true, true, 0x80⟩ }
      (fun t => t.done && t.flags == ⟨false, true, 0x80⟩) = true := by decide +kernel

theorem test_keyvalid_largest :
    ran (.keyvalid 1) (withS 1 (groupOrder - 1)) (fun t => t.done && t.flags.t) = true := by decide +kernel

theorem test_keyvalid_order :
    ran (.keyvalid 1) { withS 1 groupOrder with flags := ⟨true, true, 0x80⟩ }
      (fun t => t.done && t.flags == ⟨false, true, 0x80⟩) = true := by decide +kernel

theorem test_pldg :
    ran (.pldg 3) State.reset
      (fun t => t.done && t.windowRead 0x380 == 0x16F81798 && t.windowRead 0x3BC == 0x483ADA77 &&
        t.windowRead 0x3C0 == 0) = true := by decide +kernel

/-! Hash-A (TA1 to TA4). -/

/-- TA2: the schedule of the padded block of "abc". -/
theorem test_schedule_abc :
    (schedule (padA [0x61, 0x62, 0x63] 24)).getD 18 0 = 0x7DA86405 ∧
      (schedule (padA [0x61, 0x62, 0x63] 24)).getD 63 0 = 0x12B1EDEB := by decide +kernel

/-- TA1: 56 bytes, the shortest remainder whose padding takes two blocks. -/
theorem test_hashA_two_padding_blocks :
    hashA (List.replicate 56 0x61) = be 0xb35439a4ac6f0948b6d6f9e3c6af0f5f590ce20f1bde7090ef7970686ec6738a 32 := by
  decide +kernel

theorem test_haInit_status : ran .haInit State.reset (fun t => t.windowRead 0x004 == 0x12) = true := by decide +kernel

theorem test_haUpdate_keeps_remainder :
    ran .haUpdate (streaming (withInput [0x61]))
      (fun t => t.done && t.ha == ⟨.active, hashAInitial, [0x61], 8⟩) = true := by decide +kernel

/-- TA3: the block that completes 64 times `0x61`. -/
theorem test_haUpdate_compresses_full_block :
    ran .haUpdate { withInput (List.replicate 4 0x61) with ha := ⟨.active, hashAInitial, List.replicate 60 0x61, 480⟩ }
      (fun t => t.done && t.ha == ⟨.active, ⟨0xdf5bb81c, 0xe81e0626, 0xfb45a894, 0x4fd40f31, 0xb25e6816, 0xd6d499c1,
        0xab904929, 0x00635e66⟩, [], 512⟩) = true := by decide +kernel

theorem test_haDigest_of_nothing :
    outputs .haDigest streaming (be 0xe3b0c44298fc1c149afbf4c8996fb92427ae41e4649b934ca495991b7852b855 32) = true := by
  decide +kernel

theorem test_haDigest_when_final_fails :
    failsWith .haDigest { State.reset with ha := { HashAccumulator.fresh with st := .final } } 10 = true := by
  decide +kernel

/-! Hash-B (R172, R173, TB1). -/

/-- `rho` of R172. -/
def rho : List Nat := [7, 4, 13, 1, 10, 6, 15, 3, 12, 0, 9, 5, 2, 14, 11, 8]

/-- The per-round shift tables `SH` of R173. -/
def shiftTables : List (List Nat) :=
  [ [11, 14, 15, 12, 5, 8, 7, 9, 11, 13, 14, 15, 6, 7, 9, 8],
    [12, 13, 11, 15, 6, 9, 9, 7, 12, 15, 11, 13, 7, 8, 7, 7],
    [13, 15, 14, 11, 7, 7, 6, 8, 13, 14, 13, 12, 5, 5, 6, 9],
    [14, 11, 12, 14, 8, 6, 5, 5, 15, 12, 15, 14, 9, 9, 8, 6],
    [15, 12, 13, 13, 9, 5, 8, 6, 14, 11, 12, 11, 8, 6, 5, 5] ]

/-- The explicit tables are those that the construction of R172 and R173 gives. -/
theorem test_hashB_tables :
    (∀ i < 16, (selectLeft.getD 0 []).getD i 0 = i ∧ (selectRight.getD 0 []).getD i 0 = (9 * i + 5) % 16) ∧
      (∀ r < 4, ∀ i < 16,
        (selectLeft.getD (r + 1) []).getD i 0 = rho.getD ((selectLeft.getD r []).getD i 0) 0 ∧
        (selectRight.getD (r + 1) []).getD i 0 = rho.getD ((selectRight.getD r []).getD i 0) 0) ∧
      (∀ r < 5, ∀ i < 16,
        (rotateLeftLine.getD r []).getD i 0 = (shiftTables.getD r []).getD ((selectLeft.getD r []).getD i 0) 0 ∧
        (rotateRightLine.getD r []).getD i 0 = (shiftTables.getD r []).getD ((selectRight.getD r []).getD i 0) 0) := by
  decide +kernel

theorem test_hbHash_abc :
    outputs .hbHash (withInput [0x61, 0x62, 0x63]) (be 0x8eb208f7e05d987a9b044a8e98c6b087f15a0bfc 20) = true := by
  decide +kernel

theorem test_hbHash_two_blocks :
    outputs .hbHash (withInput (List.replicate 56 0x61)) (be 0xe72334b46c83cc70bef979e15453706c95b888be 20) = true := by
  decide +kernel

/-! Base58 (T58-1 to T58-3). Texts are written as their ASCII bytes. -/

/-- "11LUd". -/
theorem test_b58enc_leading_zeros : outputs .b58enc (withInput (be 0x0000ffee 4)) (be 0x31314c5564 5) = true := by
  decide +kernel

theorem test_b58enc_overflow : failsWith .b58enc (withInput (List.replicate 94 0xFF)) 9 = true := by decide +kernel

theorem test_b58dec_leading_ones : outputs .b58dec (withInput (be 0x31314c5564 5)) (be 0x0000ffee 4) = true := by
  decide +kernel

/-- "abc0". -/
theorem test_b58dec_alphabet_fails : failsWith .b58dec (withInput (be 0x61626330 4)) 4 = true := by decide +kernel

/-- "1Wh4bh". -/
theorem test_b58cenc_zero_byte : outputs .b58cenc (withInput [0x00]) (be 0x315768346268 6) = true := by decide +kernel

theorem test_b58cenc_overflow : failsWith .b58cenc (withInput (List.replicate 90 0xFF)) 9 = true := by decide +kernel

/-- "3QJmnh". -/
theorem test_b58cdec_empty_payload : outputs .b58cdec (withInput (be 0x33514a6d6e68 6)) [] = true := by decide +kernel

/-- "1111". -/
theorem test_b58cdec_checksum_fails : failsWith .b58cdec (withInput (be 0x31313131 4)) 5 = true := by decide +kernel

/-! The derivation pipeline (TD3, TD5). -/

theorem test_derivepub_zero_key_fails : failsWith (.derivepub 0 1 true) State.reset 1 = true := by decide +kernel

/-- Key 2, compressed: the public key bytes of TD3. -/
theorem test_derivepub_two :
    outputs (.derivepub 0 1 true) (withS 1 2)
      (0x02 :: be 0xc6047f9441ed7d6d3045406e95c07cd85c778e4b8cef3ca7abac09b95c709ee5 32) = true := by decide +kernel

/-- "1FYMZEHnszCHKTBdFZ2DLrUuk3dGwYKQxh". -/
theorem test_deriveaddr_zero_byte :
    outputs .deriveaddr (withInput [0x00])
      (be 0x3146594d5a45486e737a43484b544264465a32444c7255756b33644777594b517868 34) = true := by decide +kernel

/-- "KwDiBf89QgGbjEhKnhXJuH7LrciVrZi3qYjgd9M7rFU73sVHnoWn". -/
theorem test_wifenc_compressed_main :
    outputs (.wifenc 2 true false) (withS 2 1)
      (be 0x4b77446942663839516747626a45684b6e68584a7548374c72636956725a693371596a6764394d3772465537337356486e6f576e
        52) = true := by decide +kernel

/-- "91avARGdfge8E4tZfYLoxeJ5sGBdNJQH4kvjJoQFacbgww7vXtT". -/
theorem test_wifenc_uncompressed_test :
    outputs (.wifenc 2 false true) (withS 2 2)
      (be 0x3931617641524764666765384534745a66594c6f78654a35734742644e4a5148346b766a4a6f51466163626777773776587454
        51) = true := by decide +kernel

/-- The text above, for key 2. -/
theorem test_wifdec_uncompressed_test :
    ran (.wifdec 1)
      (withInput
        (be 0x3931617641524764666765384534745a66594c6f78654a35734742644e4a5148346b766a4a6f51466163626777773776587454 51))
      (fun t => t.done && t.S[1] == 2 && t.flags == ⟨false, false, 0xEF⟩) = true := by decide +kernel

/-- "yQHtKJ4MVAzyGBirvns5JhWEJ2Jm3JrZpUSbav4c1VmrPRRDh": a short key with a wrong checksum fails on the checksum. -/
theorem test_wifdec_checksum_before_length :
    failsWith (.wifdec 1)
      (withInput
        (be 0x795148744b4a344d56417a7947426972766e73354a6857454a324a6d334a725a705553626176346331566d725052524468 49))
      5 = true := by decide +kernel

/-! The step. -/

theorem test_illegal_word_fails :
    ∃ t, step (State.reset.withFetchWord 32 0x110) = .next t ∧ FailedWith (State.reset.launch 0x110) t 7 :=
  ⟨_, rfl, rfl⟩

/-- TR3: reset before the CORE step of an SMUL. -/
theorem test_reset_while_busy :
    ∃ t, step (expecting [.reset] (State.reset.launch 0x104)) = .next t ∧ t.statusWord = 0 ∧ t.cmdl = 0 :=
  ⟨_, rfl, by decide, by decide⟩

/-! Witnesses: for every statement that has hypotheses, states and operands that meet them, clause by clause. -/

theorem ran_decide {i : Instr} {s : State} {P : State → Prop} [DecidablePred P]
    (h : ran i s (fun t => decide (P t)) = true) : ∃ t, exec i s = .next t ∧ P t := by
  obtain ⟨t, ht, hp⟩ := ran_elim h
  exact ⟨t, ht, of_decide_eq_true hp⟩

/-- A busy state with PLDG in the latch. -/
def busyState : State := State.reset.launch 0x007

theorem busyState_sound (agenda : List Event) : (expecting agenda busyState).Sound where
  sizes := (by decide : busyState.sizes.Legal)
  oneStatus := (by decide : busyState.busy.toNat + busyState.done.toNat + busyState.err.toNat ≤ 1)
  noErrorCode := fun _ => rfl
  errorCode := fun h => by cases h
  sticky := (by decide : busyState.esticky &&& ~~~estickyBits = 0)
  outputLength := (by decide : busyState.olen.toNat ≤ busyState.sizes.obuf)
  ibufForm := (by decide : busyState.ibuf.wf)
  ibufBound := (by decide : busyState.ibuf.within busyState.sizes.ibuf)
  obufForm := (by decide : busyState.obuf.wf)
  obufBound := (by decide : busyState.obuf.within busyState.sizes.obuf)
  pending := (by decide : busyState.ha.buf.length ≤ 63)
  counted := fun h => by cases h

theorem witness_DecodedWordIsTheEncoding : decode 0x00003F02 = .ok (.padd 3 3 3) := by decide

theorem witness_UndecodedWordFailsIllegal :
    CoreTurn (expecting [.core] (State.reset.launch 0x110)) [] ∧
      (expecting [.core] (State.reset.launch 0x110)).busy = true ∧
      ∀ r ∈ opcodeMap, (expecting [.core] (State.reset.launch 0x110)).cmdl &&& r.format.mask ≠ r.op :=
  ⟨.inr rfl, rfl, by decide +kernel⟩

theorem witness_StepRunsTheDecodedCommand :
    (CoreTurn busyState [] ∧ busyState.busy = true ∧ decode busyState.cmdl = .ok (.pldg 0)) ∧
      CoreTurn (expecting [.core, .reset] busyState) [.reset] :=
  ⟨⟨.inl ⟨rfl, rfl⟩, rfl, by decide⟩, .inr rfl⟩

theorem witness_IdleCoreTakesNoStep : CoreTurn State.reset [] ∧ State.reset.busy = false := ⟨.inl ⟨rfl, rfl⟩, rfl⟩

theorem witness_CmdWriteLaunches :
    (expecting [.hostWrite 0x000 0x110]).agenda = .hostWrite 0x000 0x110 :: [] ∧
      (expecting [.hostWrite 0x000 0x110]).busy = false ∧
      (expecting [.hostWrite 0x000 0x110] busyState).agenda = .hostWrite 0x000 0x110 :: [] ∧
      (expecting [.hostWrite 0x000 0x110] busyState).busy = true := ⟨rfl, rfl, rfl, rfl⟩

/-- The clauses at `CMD`, `ESTICKY` and the last address for writes, at `STATUS`, and at its neighbours and the last
address for reads. -/
theorem witness_BusyCoreAnswersOnlyStatus :
    (∀ agenda, (expecting agenda busyState).Sound ∧ (expecting agenda busyState).busy = true) ∧
      (∀ a ∈ ([0x000, 0x00C, 0xFFC] : List WindowAddress), a.toNat % 4 = 0) ∧
      (expecting [.hostWrite 0x00C 5] busyState).agenda = .hostWrite 0x00C 5 :: [] ∧
      (expecting [.hostRead 0x004] busyState).agenda = .hostRead 0x004 :: [] ∧
      (∀ a ∈ ([0x000, 0x008, 0xFFC] : List WindowAddress), a.toNat % 4 = 0 ∧ a ≠ 0x004) ∧
      (expecting [.hostRead 0x008] busyState).agenda = .hostRead 0x008 :: [] :=
  ⟨fun agenda => ⟨busyState_sound agenda, rfl⟩, by decide +kernel, rfl, rfl, by decide +kernel, rfl⟩

theorem witness_HostTransactionsWhenIdle :
    State.reset.busy = false ∧ (0xFFC : WindowAddress).toNat % 4 = 0 ∧
      (expecting [.hostRead 0xFFC]).agenda = .hostRead 0xFFC :: [] ∧
      (expecting [.hostWrite 0x100 9]).agenda = .hostWrite 0x100 9 :: [] := ⟨rfl, by decide, rfl, rfl⟩

/-- The first and the last word of every unmapped range and of every read-only range, with the default sizes. -/
theorem witness_UnmappedAndReadOnlyWords :
    State.reset.busy = false ∧
      ([0x01C, 0x0FC, 0x180, 0x1FC, 0x244, 0x27C, 0x3C4, 0x3FC, 0x4C0, 0x7FC, 0x880, 0xBFC, 0xC80, 0xFFC].all fun n =>
        decide ((BitVec.ofNat 12 n).toNat % 4 = 0 ∧
          ((0x01C ≤ n ∧ n < 0x100) ∨ (0x180 ≤ n ∧ n < 0x200) ∨ (0x200 ≤ n ∧ n < 0x400 ∧ 0x40 < n % 0x80) ∨
            (0x4C0 ≤ n ∧ n < 0x800) ∨ (0x800 + State.reset.sizes.ibuf ≤ n ∧ n < 0xC00) ∨
            0xC00 + State.reset.sizes.obuf ≤ n))) = true ∧
      ([0x004, 0x008, 0x014, 0x018, 0x400, 0x4BC, 0xC00, 0xFFC].all fun n =>
        decide ((BitVec.ofNat 12 n).toNat % 4 = 0 ∧
          (n = 0x004 ∨ n = 0x008 ∨ n = 0x014 ∨ n = 0x018 ∨ (0x400 ≤ n ∧ n < 0x4C0) ∨ 0xC00 ≤ n))) = true := by
  decide +kernel

/-- The first and the last whole word of the default buffer, and the word of bytes 128 to 131 of a buffer of 130. -/
theorem witness_WritableWordsReadBack :
    State.reset.busy = false ∧ (4 * 0 + 3 < State.reset.sizes.ibuf ∧ 0 < 256) ∧
      (4 * 31 + 3 < State.reset.sizes.ibuf ∧ 31 < 256) ∧
      (withSizes 130 130).busy = false ∧ (withSizes 130 130).sizes.Legal ∧
      4 * 32 + 1 < (withSizes 130 130).sizes.ibuf ∧ ¬4 * 32 + 2 < (withSizes 130 130).sizes.ibuf := by decide

theorem witness_WriteTouchesOnlyItsWord :
    (0x004 : WindowAddress).toNat % 4 = 0 ∧ (0xFFC : WindowAddress).toNat % 4 = 0 ∧
      (0x004 : WindowAddress) ≠ 0x000 ∧ (0xFFC : WindowAddress) ≠ 0x004 := by decide

/-- A narrow transaction, a misaligned one, a legal one, and one that is both narrow and misaligned. -/
theorem witness_OnlyAlignedWordTransactionsAreLegal :
    (expecting [.host (.read .bits16 0x000)]).agenda = .host (.read .bits16 0x000) :: [] ∧
      (HostMove.read .bits16 0x000).width ≠ .bits32 ∧
      (expecting [.host (.write .bits32 0xFFF 1)]).agenda = .host (.write .bits32 0xFFF 1) :: [] ∧
      (HostMove.write .bits32 0xFFF 1).width = .bits32 ∧
      (HostMove.write .bits32 0xFFF 1).address.toNat % 4 ≠ 0 ∧
      (HostMove.read .bits32 0xFFC).width = .bits32 ∧ (HostMove.read .bits32 0xFFC).address.toNat % 4 = 0 ∧
      (expecting [.host (.write .bits8 0x001 1)]).agenda = .host (.write .bits8 0x001 1) :: [] ∧
      (HostMove.write .bits8 0x001 1).width ≠ .bits32 ∧ (HostMove.write .bits8 0x001 1).address.toNat % 4 ≠ 0 :=
  ⟨rfl, by decide, rfl, rfl, by decide, rfl, by decide, rfl, by decide, by decide⟩

theorem witness_ResetEventGivesResetState :
    (expecting [.reset] busyState).agenda = .reset :: [] ∧ CoreTurn (expecting [.reset] busyState).nextEvent.2.applyReset [] :=
  ⟨rfl, .inl ⟨rfl, rfl⟩⟩

theorem witness_StepKeepsSound :
    ∃ t, (expecting [.core] busyState).Sound ∧ step (expecting [.core] busyState) = .next t :=
  ⟨_, busyState_sound _, rfl⟩

theorem witness_LegalAgendaNeverStops :
    (expecting [.hostWrite 0x000 0x007, .core, .hostRead 0x004, .reset]).LegalAgenda := by
  intro e he
  simp only [expecting, List.mem_cons, List.not_mem_nil, or_false] at he
  obtain rfl | rfl | rfl | rfl := he <;> rfl

theorem witness_CommandsNeverWriteInputs : ∃ t, exec (.pldg 3) State.reset = .next t ∧ t.done = true :=
  ran_decide (by decide +kernel)

theorem witness_ScalarRegistersFrame :
    ∃ t, exec (.modinv 3 0) (withS 0 2) = .next t ∧ t.S[(3 : Fin 4)] ≠ (withS 0 2).S[(3 : Fin 4)] :=
  ran_decide (by decide +kernel)

theorem witness_PointRegistersFrame :
    ∃ t, exec (.pldg 0) State.reset = .next t ∧ t.PT[(0 : Fin 4)] ≠ State.reset.PT[(0 : Fin 4)] :=
  ran_decide (by decide +kernel)

/-- "5HpHagT65TZzG1PH3CSu63k8DbpvD8s5ip4nEB3kEsreAnchuDf": key 1, uncompressed, mainnet (TD3). -/
def wifText : Bytes :=
  be 0x354870486167543635545a7a473150483343537536336b3844627076443873356970346e4542336b45737265416e6368754466 51

theorem witness_FlagsFrame :
    (∃ t, exec (.keyvalid 0) (withS 0 1) = .next t ∧ t.flags.t ≠ (withS 0 1).flags.t) ∧
      ∃ t, exec (.wifdec 0) (withInput wifText) = .next t ∧
        (t.flags.c ≠ (withInput wifText).flags.c ∨ t.flags.ver ≠ (withInput wifText).flags.ver) :=
  ⟨ran_decide (by decide +kernel), ran_decide (by decide +kernel)⟩

theorem witness_AccumulatorFrame : ∃ t, exec .haInit State.reset = .next t ∧ t.ha ≠ State.reset.ha :=
  ran_decide (by decide +kernel)

theorem witness_OutputBufferFrame :
    State.reset.sizes.Legal ∧
      (∃ t, exec (.pldg 0) State.reset = .next t ∧ producesOutput (.pldg 0) = false) ∧
      (∃ t, exec .haDigest State.reset = .next t ∧ t.done = false) ∧
      ∃ t, exec .haDigest streaming = .next t ∧ (producesOutput .haDigest = true ∧ t.done = true ∧ t.olen.toNat ≤ 32) :=
  ⟨by decide, ran_decide (by decide +kernel), ran_decide (by decide +kernel), ran_decide (by decide +kernel)⟩

/-- Two input buffers that agree on the three bytes below `ILEN` and differ at byte 3. -/
theorem witness_BytesBeyondIlenAreNeverRead :
    (∀ k, k < (withInput [0x61, 0x62, 0x63]).ilen.toNat →
      State.bufferByte { withInput [0x61, 0x62, 0x63] with ibuf := Memory.writeBytes [] 0 [0x61, 0x62, 0x63, 0x64] } .ibuf k =
        (withInput [0x61, 0x62, 0x63]).bufferByte .ibuf k) ∧
      ∃ t, exec .hbHash (withInput [0x61, 0x62, 0x63]) = .next t ∧ t.done = true := by
  refine ⟨fun k hk => ?_, ran_decide (by decide +kernel)⟩
  have hk : k < 3 := hk
  interval_cases k <;> rfl

theorem witness_AccumulatorIsIgnoredByOthers :
    usesAccumulator (.keyvalid 0) = false ∧ ∃ t, exec (.keyvalid 0) State.reset = .next t ∧ t.done = true :=
  ⟨rfl, ran_decide (by decide +kernel)⟩

/-- The state with other contents in what the reports hold. -/
def withReports (s : State) : State := { s with obuf := [(0, 7)], olen := 1, flags := ⟨true, true, 9⟩, esticky := 2 }

/-- Both runs of a command with output, of one that writes `T`, of one that writes `C` and `VER`, and of one that fails. -/
theorem witness_CommandsNeverReadReports :
    ((∃ t, exec .haDigest streaming = .next t ∧ t.done = true ∧ producesOutput .haDigest = true) ∧
      ∃ t', exec .haDigest (withReports streaming) = .next t' ∧ t'.done = true) ∧
    ((∃ t, exec (.keyvalid 0) (withS 0 1) = .next t ∧ t.done = true) ∧
      ∃ t', exec (.keyvalid 0) (withReports (withS 0 1)) = .next t' ∧ t'.done = true) ∧
    ((∃ t, exec (.wifdec 0) (withInput wifText) = .next t ∧ t.done = true) ∧
      ∃ t', exec (.wifdec 0) (withReports (withInput wifText)) = .next t' ∧ t'.done = true) ∧
    ((∃ t, exec .haDigest State.reset = .next t ∧ t.done = false) ∧
      ∃ t', exec .haDigest (withReports State.reset) = .next t' ∧ t'.done = false) := by
  refine ⟨⟨?_, ?_⟩, ⟨?_, ?_⟩, ⟨?_, ?_⟩, ?_, ?_⟩ <;> exact ran_decide (by decide +kernel)

/-- The smallest operand, the last below `p`, the first above it, and the last of all. -/
theorem witness_ModinvWritesTheInverse :
    ([1, fieldPrime - 1, fieldPrime + 1, 2 ^ 256 - 1].all fun v =>
      decide (((withS 1 v).S[(1 : Fin 4)]).toNat % fieldPrime ≠ 0)) = true := by decide +kernel

theorem witness_PaddWritesTheSum :
    State.reset.getpt 0 = .ok .inf ∧
      (withP 0 generatorX generatorY).getpt 0 = .ok (.aff generatorX generatorY) ∧ generatorY ≠ 0 ∧
      (withP 1 generatorX minusGy).getpt 1 = .ok (.aff generatorX minusGy) ∧ generatorY ≠ minusGy ∧
      (generatorY + minusGy) % fieldPrime = 0 ∧
      (withP 1 (fieldPrime - 1) 0).getpt 1 = .ok (.aff (fieldPrime - 1) 0) ∧ generatorX ≠ fieldPrime - 1 := by
  decide +kernel

theorem witness_PdblWritesTheDouble :
    State.reset.getpt 2 = .ok .inf ∧ (withP 2 0 1).getpt 2 = .ok (.aff 0 1) ∧
      (withP 2 0 (fieldPrime - 1)).getpt 2 = .ok (.aff 0 (fieldPrime - 1)) ∧ fieldPrime - 1 ≠ 0 := by decide +kernel

theorem witness_ArithmeticFailures :
    ((withS 0 0).S[(0 : Fin 4)]).toNat % fieldPrime = 0 ∧ ((withS 0 fieldPrime).S[(0 : Fin 4)]).toNat % fieldPrime = 0 ∧
      (withP 0 5 0).getpt 0 = .ok (.aff 5 0) ∧ (withP 1 5 0 (withP 0 5 0)).getpt 1 = .ok (.aff 5 0) ∧
      (withP 1 1 3 (withP 0 1 2)).getpt 0 = .ok (.aff 1 2) ∧ (withP 1 1 3 (withP 0 1 2)).getpt 1 = .ok (.aff 1 3) ∧
      (2 + 3) % fieldPrime ≠ 0 ∧
      scalarMultiply ((withP 0 5 0).S[(1 : Fin 4)]) (.aff 5 0) = .error .divisionByZero := by decide +kernel

theorem witness_OutOfRangePointFails :
    ((withP 0 fieldPrime 1).PT[(0 : Fin 4)]).inf = false ∧ fieldPrime ≤ ((withP 0 fieldPrime 1).PT[(0 : Fin 4)]).x.toNat ∧
      ((withP 0 1 fieldPrime).PT[(0 : Fin 4)]).inf = false ∧
      fieldPrime ≤ ((withP 0 1 fieldPrime).PT[(0 : Fin 4)]).y.toNat := by decide +kernel

theorem witness_PointRegisterHoldsPoint :
    (State.reset.PT[(0 : Fin 4)]).inf = true ∧ ((withP 0 0 (fieldPrime - 1)).PT[(0 : Fin 4)]).inf = false ∧
      ((withP 0 0 (fieldPrime - 1)).PT[(0 : Fin 4)]).x.toNat < fieldPrime ∧
      ((withP 0 0 (fieldPrime - 1)).PT[(0 : Fin 4)]).y.toNat < fieldPrime ∧
      ((withP 0 0 fieldPrime).PT[(0 : Fin 4)]).inf = false ∧
      fieldPrime ≤ ((withP 0 0 fieldPrime).PT[(0 : Fin 4)]).y.toNat ∧ 0 < fieldPrime ∧ fieldPrime - 1 < fieldPrime := by
  decide +kernel

/-- The base `INF` with all 256 iterations written out, an off-curve base, `AFF(1, 2)` with scalar 1, and `AFF(5, 0)`,
whose first doubling fails (TC3). -/
theorem witness_SmulWritesDoubleAndAdd :
    ((withS 3 5).getpt 0 = .ok .inf ∧
      DoubleAndAddRun ((withS 3 5).S[(3 : Fin 4)]) .inf 256 (fun _ => .inf) (fun _ => .inf)) ∧
    ((withP 0 1 2).getpt 0 = .ok (.aff 1 2) ∧
      scalarMultiply ((withS 3 1 (withP 0 1 2)).S[(3 : Fin 4)]) (.aff 1 2) = .ok (.aff 1 2)) ∧
    (withP 0 5 0).getpt 0 = .ok (.aff 5 0) ∧
      DoubleAndAddRun ((withP 0 5 0).S[(3 : Fin 4)]) (.aff 5 0) 0 (fun _ => .inf) (fun _ => .aff 5 0) ∧
      pointDouble (.aff 5 0) = .error .divisionByZero :=
  ⟨⟨by decide +kernel, rfl, rfl, fun _ _ => ⟨fun _ => rfl, fun _ => rfl, rfl⟩⟩, by decide +kernel, by decide +kernel,
    ⟨rfl, rfl, fun i hi => absurd hi (Nat.not_lt_zero i)⟩, rfl⟩

theorem doubleGenerator_ofCurve : Point.OfCurve (.aff twoGx twoGy) := ⟨by decide +kernel, by decide +kernel, by decide +kernel⟩

theorem witness_CurveIsClosed : Point.OfCurve .inf ∧ Point.OfCurve (.aff twoGx twoGy) := ⟨trivial, doubleGenerator_ofCurve⟩

theorem witness_SmulOnTheCurveCompletes :
    (withP 0 twoGx twoGy).getpt 0 = .ok (.aff twoGx twoGy) ∧ Point.OfCurve (.aff twoGx twoGy) :=
  ⟨by decide +kernel, doubleGenerator_ofCurve⟩

theorem witness_SmulIsRepeatedAddition : Point.OfCurve (.aff twoGx twoGy) := doubleGenerator_ofCurve

theorem witness_SmulOfSmallScalars :
    scalarMultiply 0 .inf = .ok .inf ∧ scalarMultiply 1 .inf = .ok .inf ∧ scalarMultiply 2 .inf = .ok .inf := by
  decide +kernel

theorem witness_OncurveWritesTheEquation :
    State.reset.getpt 3 = .ok .inf ∧ (withP 3 1 2).getpt 3 = .ok (.aff 1 2) ∧
      (withP 3 fieldPrime 2).getpt 3 = .error .operandRange := by decide +kernel

/-- An empty input, and one of the buffer's size. -/
theorem witness_HaUpdateAppends :
    (streaming (withInput [])).ha.st = .active ∧
      (streaming (withInput [])).ilen.toNat ≤ (streaming (withInput [])).sizes.ibuf ∧
      (streaming (withInput (List.replicate 128 0x61))).ha.st = .active ∧
      (streaming (withInput (List.replicate 128 0x61))).ilen.toNat ≤
        (streaming (withInput (List.replicate 128 0x61))).sizes.ibuf := by decide +kernel

theorem witness_HaDigestWritesTheDigest : streaming.sizes.Legal ∧ streaming.ha.st = .active := by decide

theorem witness_HashSequenceErrors :
    State.reset.ha.st ≠ .active ∧ (State.setAccumulator State.reset (HashAccumulator.fresh.finalised)).ha.st ≠ .active := by
  decide +kernel

/-- HA.INIT, one HA.UPDATE of "a", HA.DIGEST. -/
theorem witness_StreamingEqualsHashA :
    ∃ s₁ s₂ t, exec .haInit (withInput [0x61]) = .next s₁ ∧ Streams s₁ [[0x61]] s₂ ∧
      exec .haDigest s₂ = .next t ∧ t.done = true := by
  have hin : (withInput [0x61] |>.setAccumulator HashAccumulator.fresh |>.completeOk).input = [0x61] := rfl
  have hup : exec .haUpdate (withInput [0x61] |>.setAccumulator HashAccumulator.fresh |>.completeOk) =
      .next ((withInput [0x61] |>.setAccumulator HashAccumulator.fresh |>.completeOk).setAccumulator
        (HashAccumulator.fresh.append [0x61])).completeOk := rfl
  obtain ⟨t, ht, hdone⟩ := ran_decide (i := .haDigest)
    (s := ((withInput [0x61] |>.setAccumulator HashAccumulator.fresh |>.completeOk).setAccumulator
        (HashAccumulator.fresh.append [0x61])).completeOk) (P := fun t => t.done = true) (by decide +kernel)
  exact ⟨_, _, t, rfl, ⟨_, _, rfl, hin, hup, rfl, rfl⟩, ht, hdone⟩

theorem witness_HbHashWritesTheDigest :
    State.reset.sizes.Legal ∧ (withInput (List.replicate 128 0x61)).ilen.toNat ≤
      (withInput (List.replicate 128 0x61)).sizes.ibuf := by decide +kernel

/-- `ILEN = 129`, the first length that is too long, with and without an active accumulator. -/
theorem witness_InputBeyondBufferFails :
    State.reset.sizes.ibuf < (State.hostWrite State.reset 0x010 129).ilen.toNat ∧
      streaming.sizes.ibuf < (State.hostWrite streaming 0x010 129).ilen.toNat ∧
      (State.hostWrite streaming 0x010 129).ha.st = .active := by decide +kernel

theorem witness_Base58EncodesItsDecoding :
    ([0x31, 0x7A] : Bytes).all (fun ch => decide (ch ∈ alphabet)) = true := by decide +kernel

/-- An input that fits, and one whose text does not (T58-1, TX1). -/
theorem witness_EncodersWriteTheirText :
    (withInput [0x00]).ilen.toNat ≤ (withInput [0x00]).sizes.ibuf ∧ (b58encode (withInput [0x00]).input).length ≤ 128 ∧
      (b58encode ((withInput [0x00]).input ++ (hashA (hashA (withInput [0x00]).input)).take 4)).length ≤ 128 ∧
      (withInput (List.replicate 94 0xFF)).ilen.toNat ≤ (withInput (List.replicate 94 0xFF)).sizes.ibuf ∧
      128 < (b58encode (withInput (List.replicate 94 0xFF)).input).length ∧
      128 < (b58encode ((withInput (List.replicate 94 0xFF)).input ++
        (hashA (hashA (withInput (List.replicate 94 0xFF)).input)).take 4)).length := by decide +kernel

/-- The Base58Check text of 66 zero bytes, one more than the smallest `OBUFSZ` (R7). -/
def zerosText : Bytes := b58checkEncode (List.replicate 66 0)

theorem test_b58cdec_overflow : failsWith .b58cdec (withInput zerosText (withSizes 128 65)) 9 = true := by decide +kernel

/-- `zerosText` decodes to a payload that is too long for an output buffer of 65 bytes; "0" is not over the alphabet; "111" decodes to three bytes, "1111" to four with a wrong checksum, "3QJmnh" to the
checksum of the empty payload. -/
theorem witness_DecodersWriteTheirBytes :
    (withInput [0x30]).ilen.toNat ≤ (withInput [0x30]).sizes.ibuf ∧
      (withInput [0x30]).sizes.ibuf ≤ (withInput [0x30]).sizes.obuf ∧ zerosText.length = 72 ∧
      (withSizes 128 65).sizes.Legal ∧
      (withInput zerosText (withSizes 128 65)).ilen.toNat ≤ (withInput zerosText (withSizes 128 65)).sizes.ibuf ∧
      (withInput zerosText (withSizes 128 65)).input = zerosText ∧
      b58decode zerosText = .ok (List.replicate 66 0 ++ (hashA (hashA (List.replicate 66 0))).take 4) ∧
      (withInput zerosText (withSizes 128 65)).sizes.obuf < (List.replicate 66 (0 : Byte)).length ∧
      ((withInput [0x30]).input.any fun ch => decide (ch ∉ alphabet)) = true ∧
      ((withInput (be 0x33514a6d6e68 6)).input.all fun ch => decide (ch ∈ alphabet)) = true ∧
      b58decode (be 0x313131 3) = .ok [0, 0, 0] ∧
      b58decode (be 0x31313131 4) = .ok ([] ++ [0, 0, 0, 0]) ∧ (hashA (hashA [])).take 4 ≠ [0, 0, 0, 0] ∧
      b58decode (be 0x33514a6d6e68 6) = .ok ([] ++ be 0x5df6e0e2 4) ∧
      (hashA (hashA [])).take 4 = be 0x5df6e0e2 4 := by decide +kernel

/-- The keys 0, `n`, 1 and `n - 1`. -/
theorem witness_DerivepubWritesThePublicKey :
    State.reset.sizes.Legal ∧ ((withS 0 0).S[(0 : Fin 4)]).toNat = 0 ∧
      groupOrder ≤ ((withS 0 groupOrder).S[(0 : Fin 4)]).toNat ∧
      (1 ≤ ((withS 0 1).S[(0 : Fin 4)]).toNat ∧ ((withS 0 1).S[(0 : Fin 4)]).toNat < groupOrder) ∧
      (1 ≤ ((withS 0 (groupOrder - 1)).S[(0 : Fin 4)]).toNat ∧
        ((withS 0 (groupOrder - 1)).S[(0 : Fin 4)]).toNat < groupOrder) := by decide +kernel

theorem witness_DeriveaddrWritesTheAddress :
    State.reset.sizes.Legal ∧ (withInput []).ilen.toNat ≤ (withInput []).sizes.ibuf ∧
      (withInput (List.replicate 128 0x61)).ilen.toNat ≤ (withInput (List.replicate 128 0x61)).sizes.ibuf := by
  decide +kernel

theorem witness_WifencWritesTheText : State.reset.sizes.Legal := by decide

/-- "0"; "1111" (four bytes); the short key with a wrong checksum; the key `11..11` under version 0 and the same
key marked (TD5); the key of 31 bytes (TD5). -/
theorem witness_WifdecReadsTheKey :
    ((withInput [0x30]).input.any fun ch => decide (ch ∉ alphabet)) = true ∧
      b58decode (withInput (be 0x31313131 4)).input = .ok [0, 0, 0, 0] ∧
      (b58decode (be 0x795148744b4a344d56417a7947426972766e73354a6857454a324a6d334a725a705553626176346331566d725052524468
          49) =
        .ok (0x80 :: (List.replicate 31 0x11 ++ be 0x00000000 4)) ∧
        (hashA (hashA (0x80 :: List.replicate 31 0x11))).take 4 ≠ be 0x00000000 4) ∧
      (b58decode (be 0x31385777704a4369786e39634b65336a41795876784e656f354a7242464b6a3433554c6b55655466654c4d7150386b714537
          50) =
        .ok (0x00 :: (List.replicate 32 0x11 ++ checksum (0x00 :: List.replicate 32 0x11)))) ∧
      (b58decode
          (be 0x4b776e744d627435397454736a387871707159715252577566796a47756e76685379654d6f334e54597046597a5a62584a354870 52) =
        .ok (0x80 :: ((List.replicate 32 0x11 ++ [0x01]) ++ checksum (0x80 :: (List.replicate 32 0x11 ++ [0x01]))))) ∧
      (b58decode (be 0x795148744b4a344d56417a7947426972766e73354a6857454a324a6d334a725a705553626176346331566d74584838424d
          49) =
        .ok (0x80 :: (List.replicate 31 0x11 ++ checksum (0x80 :: List.replicate 31 0x11)))) := by decide +kernel

/-- WIFENC of key 1, uncompressed, for mainnet, and a state that holds its text as input. -/
theorem witness_WifRoundTrip :
    (withS 0 1).sizes.Legal ∧ (withInput wifText).ilen.toNat ≤ (withInput wifText).sizes.ibuf ∧
      ∃ t, exec (.wifenc 0 false false) (withS 0 1) = .next t ∧
        (withInput wifText).input = t.memRead .obuf t.olen.toNat :=
  ⟨by decide, by decide +kernel, ran_decide (by decide +kernel)⟩

end Sys2Proof.Tests
end

section
/-! Every step keeps the invariant `State.Sound`. First one rule per state update, then one lemma per kind of event,
then the step. -/

namespace Sys2Proof.Machine

variable {s u t : State}

/-! Updates of fields that the invariant does not speak of. -/

theorem State.Sound.setScalar (h : s.Sound) (i : RegIndex) (v : Scalar) : (s.setScalar i v).Sound := { h with }

theorem State.Sound.setPointRegister (h : s.Sound) (i : RegIndex) (v : PointRegister) :
    (s.setPointRegister i v).Sound := { h with }

theorem State.Sound.setPoint (h : s.Sound) (i : RegIndex) (P : Point) : (s.setPoint i P).Sound :=
  h.setPointRegister i P.register

theorem State.Sound.setFlagT (h : s.Sound) (v : Bool) : (s.setFlagT v).Sound := { h with }

theorem State.Sound.setFlagsWif (h : s.Sound) (c : Bool) (ver : Byte) : (s.setFlagsWif c ver).Sound := { h with }

theorem State.Sound.nextEvent (h : s.Sound) : s.nextEvent.2.Sound := by
  unfold State.nextEvent
  cases s.agenda with
  | nil => exact h
  | cons e rest => exact { h with }

/-! Updates of fields it speaks of. -/

/-- The accumulator may be replaced by one with less than a block pending and a counter that agrees (R37). -/
theorem State.Sound.setAccumulator (h : s.Sound) {a : HashAccumulator} (pending : a.buf.length ≤ 63)
    (counted : a.st = .active → a.bits.toNat % 512 = 8 * a.buf.length) : (s.setAccumulator a).Sound :=
  { h with pending := pending, counted := counted }

/-- Output that fits `OBUFSZ` has a length that fits the nine bits of `OLEN`: `OBUFSZ` is at most 256 (R7, R29). -/
theorem State.Sound.putOutput (h : s.Sound) {b : Bytes} (fits : b.length ≤ s.sizes.obuf) : (s.putOutput b).Sound :=
  { h with
    outputLength := by
      obtain ⟨-, -, -, small⟩ := h.sizes
      simp only [State.putOutput_olen, State.putOutput_sizes, BitVec.toNat_ofNat]
      omega
    obufForm := Memory.writeBytes_wf h.obufForm 0 b
    obufBound := Memory.writeBytes_within h.obufBound (by omega) }

/-- A busy CORE in a sound state shows neither `DONE` nor `ERR` (R25). -/
theorem State.Sound.of_busy (h : s.Sound) (busy : s.busy = true) : s.done = false ∧ s.err = false := by
  have one := h.oneStatus
  rw [busy, Bool.toNat_true] at one
  exact ⟨Bool.toNat_eq_zero.mp (by omega), Bool.toNat_eq_zero.mp (by omega)⟩

theorem State.Sound.completeOk (h : s.Sound) (busy : s.busy = true) : s.completeOk.Sound :=
  { h with oneStatus := by simp [(h.of_busy busy).2] }

/-- The bit an error sets in `ESTICKY` is one that exists (R27, R231). -/
theorem CommandError.stickyBit_reserved (e : CommandError) : e.stickyBit &&& ~~~estickyBits = 0 := by
  cases e <;> decide

theorem State.Sound.abort (h : s.Sound) (e : CommandError) : (s.abort e).Sound :=
  { h with
    oneStatus := by simp
    noErrorCode := by simp
    errorCode := fun _ => by
      obtain ⟨low, high⟩ := e.code_range
      simp only [State.abort_errcode, BitVec.toNat_ofNat]
      omega
    sticky := by
      rw [State.abort_esticky, BitVec.and_or_distrib_right, h.sticky, e.stickyBit_reserved]
      rfl }

theorem State.Sound.launch (h : s.Sound) (w : Word) : (s.launch w).Sound :=
  { h with
    oneStatus := by simp
    noErrorCode := by simp
    errorCode := by simp }

theorem State.Sound.applyReset (h : s.Sound) : s.applyReset.Sound where
  sizes := h.sizes
  oneStatus := by simp
  noErrorCode := by simp
  errorCode := by simp
  sticky := by simp
  outputLength := by simp
  ibufForm := State.reset_memories_wf.1
  ibufBound := by simp
  obufForm := State.reset_memories_wf.2
  obufBound := by simp
  pending := by simp [HashAccumulator.atReset]
  counted := by simp [HashAccumulator.atReset]

/-! The HOST. -/

/-- A HOST write while `BUSY = 0`, location by location (R61). -/
theorem State.Sound.windowWrite (h : s.Sound) (a : WindowAddress) (w : Word) : (s.windowWrite a w).Sound := by
  unfold State.windowWrite
  cases locate a with
  | cmd => exact h.launch w
  | esticky =>
    have cleared : s.esticky &&& ~~~w &&& ~~~estickyBits = s.esticky &&& ~~~estickyBits &&& ~~~w := by ac_rfl
    exact { h with sticky := by simp [cleared, h.sticky] }
  | ilen => exact { h with }
  | scalarWord i j => exact h.setScalar i _
  | pointX i j => exact h.setPointRegister i _
  | pointY i j => exact h.setPointRegister i _
  | pointTag i => exact h.setPointRegister i _
  | ibufWord m =>
    exact { h with
      ibufForm := writeLanes_wf _ _ _ _ h.ibufForm
      ibufBound := writeLanes_within _ _ _ _ h.ibufBound }
  | status | errcode | olen | flags | constantWord | obufWord | unmapped => exact h

theorem State.Sound.hostWrite (h : s.Sound) (a : WindowAddress) (w : Word) : (s.hostWrite a w).Sound := by
  unfold State.hostWrite
  split_ifs
  · exact h
  · exact h.windowWrite a w

theorem State.Sound.hostRead (h : s.Sound) (a : WindowAddress) : (s.hostRead a).Sound := by
  unfold State.hostRead
  split_ifs <;> exact { h with }

/-! The commands. -/

/-- What is left after the full blocks is the length modulo 64 (R156). -/
theorem remainder_length (b : Bytes) : (remainder b).length = b.length % 64 := by
  rw [remainder, List.length_drop]
  omega

/-- An update leaves less than a block pending (R158). -/
theorem HashAccumulator.append_pending (a : HashAccumulator) (d : Bytes) : (a.append d).buf.length ≤ 63 := by
  have := remainder_length (a.buf ++ d)
  simp only [HashAccumulator.append]
  omega

/-- The counter goes on agreeing with the pending bytes: a block has 512 bits, and 512 divides `2^64` (R158). -/
theorem HashAccumulator.append_counted {a : HashAccumulator} (counted : a.bits.toNat % 512 = 8 * a.buf.length)
    (d : Bytes) : (a.append d).bits.toNat % 512 = 8 * (a.append d).buf.length := by
  simp only [HashAccumulator.append, remainder_length, List.length_append, BitVec.toNat_add, BitVec.toNat_ofNat]
  omega

/-- A computation of a command leads, when it answers, to a sound state in which the CORE is still busy. -/
def StaysSound (r : Except CommandError State) : Prop := ∀ u, r = .ok u → u.Sound ∧ u.busy = true

theorem staysSound_ok (h : u.Sound) (busy : u.busy = true) : StaysSound (.ok u) := by
  rintro _ ⟨⟩
  exact ⟨h, busy⟩

/-- A stage in front of a computation: only the values it answers matter (R14). -/
theorem staysSound_stage {α : Type} {stage : Except CommandError α} {after : α → Except CommandError State}
    (h : ∀ value, stage = .ok value → StaysSound (after value)) :
    StaysSound (do let value ← stage; after value) := by
  rw [stage_as_match]
  cases stage with
  | error e => rintro u ⟨⟩
  | ok value => exact h value rfl

theorem staysSound_out (h : s.Sound) (busy : s.busy = true) (b : Bytes) : StaysSound (s.out b) := by
  intro u hu
  obtain ⟨fits, rfl⟩ := State.out_eq_ok hu
  exact ⟨h.putOutput fits, busy⟩

/-- A command whose computation stays sound ends in a sound state, `Ok` or `Fail` (R72, R236). -/
theorem State.Sound.finish (h : s.Sound) {r : Except CommandError State} (ends : s.finish r = .next t)
    (stays : StaysSound r) : t.Sound := by
  obtain ⟨u, hr, rfl⟩ | ⟨e, -, rfl⟩ := State.finish_cases ends
  · obtain ⟨sound, busy⟩ := stays u hr
    exact sound.completeOk busy
  · exact h.abort e

/-- Every command ends in a sound state, from a sound state in which it was launched. -/
theorem State.Sound.exec (h : s.Sound) (busy : s.busy = true) (i : Instr) (ends : exec i s = .next t) : t.Sound := by
  cases i with
  | modinv rd ra => exact h.finish ends (staysSound_stage fun _ _ => staysSound_ok (h.setScalar rd _) busy)
  | padd rd ra rb =>
    exact h.finish ends (staysSound_stage fun _ _ => staysSound_stage fun _ _ => staysSound_stage fun _ _ =>
      staysSound_ok (h.setPoint rd _) busy)
  | pdbl rd ra =>
    exact h.finish ends (staysSound_stage fun _ _ => staysSound_stage fun _ _ => staysSound_ok (h.setPoint rd _) busy)
  | smul rd ra rb =>
    exact h.finish ends (staysSound_stage fun _ _ => staysSound_stage fun _ _ => staysSound_ok (h.setPoint rd _) busy)
  | oncurve ra => exact h.finish ends (staysSound_stage fun _ _ => staysSound_ok (h.setFlagT _) busy)
  | keyvalid ra =>
    exact h.finish (r := .ok (s.setFlagT (isValidPrivateKey (s.scalar ra)))) ends
      (staysSound_ok (h.setFlagT _) busy)
  | pldg rd => exact h.finish (r := .ok (s.setPoint rd generator)) ends (staysSound_ok (h.setPoint rd _) busy)
  | haInit =>
    exact h.finish (r := .ok (s.setAccumulator HashAccumulator.fresh)) ends
      (staysSound_ok (h.setAccumulator (Nat.zero_le 63) fun _ => rfl) busy)
  | haUpdate =>
    refine h.finish ends (staysSound_stage fun a ha => staysSound_stage fun d _ => staysSound_ok ?_ busy)
    obtain ⟨active, rfl⟩ := State.activeAccumulator_eq_ok ha
    exact h.setAccumulator (s.ha.append_pending d) fun _ => HashAccumulator.append_counted (h.counted active) d
  | haDigest =>
    refine h.finish ends (staysSound_stage fun a _ => staysSound_stage fun u hu => ?_)
    obtain ⟨sound, stillBusy⟩ := staysSound_out h busy a.finalWords.digest u hu
    exact staysSound_ok (sound.setAccumulator (Nat.zero_le 63) fun final => by cases final) stillBusy
  | hbHash => exact h.finish ends (staysSound_stage fun _ _ => staysSound_out h busy _)
  | b58enc => exact h.finish ends (staysSound_stage fun _ _ => staysSound_out h busy _)
  | b58dec =>
    exact h.finish ends (staysSound_stage fun _ _ => staysSound_stage fun _ _ => staysSound_out h busy _)
  | b58cenc => exact h.finish ends (staysSound_stage fun _ _ => staysSound_out h busy _)
  | b58cdec =>
    exact h.finish ends (staysSound_stage fun _ _ => staysSound_stage fun _ _ => staysSound_out h busy _)
  | derivepub rd ra c =>
    exact h.finish ends (staysSound_stage fun _ _ => staysSound_stage fun _ _ => staysSound_stage fun _ _ =>
      staysSound_out (h.setPoint rd _) busy _)
  | deriveaddr => exact h.finish ends (staysSound_stage fun _ _ => staysSound_out h busy _)
  | wifenc ra c marked => exact h.finish ends (staysSound_out h busy _)
  | wifdec rd =>
    exact h.finish ends (staysSound_stage fun _ _ => staysSound_stage fun _ _ => staysSound_stage fun _ _ =>
      staysSound_ok ((h.setScalar rd _).setFlagsWif _ _) busy)

/-! The step. -/

/-- Settles O19: the event is taken from a sound state, and each kind of event keeps the invariant. -/
theorem stepKeepsSound : Obligations.StepKeepsSound := by
  intro s t sound hstep
  obtain ⟨e, u, hu, event⟩ := step_cases hstep
  have h : u.Sound := by simpa [hu] using sound.nextEvent
  obtain ⟨a, w, -, -, rfl⟩ | ⟨a, -, -, rfl⟩ | ⟨-, -, rfl⟩ | ⟨i, -, busy, -, ends⟩ | ⟨-, -, -, -, rfl⟩ | ⟨-, rfl⟩ :=
    event
  · exact h.hostWrite a w
  · exact h.hostRead a
  · exact h
  · exact h.exec busy i ends
  · exact h.abort .illegalCommand
  · exact h.applyReset

end Sys2Proof.Machine
end

section
/-! The extended-Euclidean loop of R121 ends within its fuel and finds the inverse. -/

namespace Sys2Proof.Machine

@[simp] theorem euclidLoop_of_zero (fuel r₀ : Nat) (t₀ t₁ : Int) : euclidLoop fuel r₀ 0 t₀ t₁ = t₀ := by
  cases fuel <;> simp [euclidLoop]

/-- A turn of the loop more than halves the product of the remainders. -/
theorem two_mul_remainders_lt {r₀ r₁ : Nat} (pos : 0 < r₁) (lt : r₁ < r₀) : 2 * (r₁ * (r₀ % r₁)) < r₀ * r₁ := by
  have split : r₁ * (r₀ / r₁) + r₀ % r₁ = r₀ := Nat.div_add_mod r₀ r₁
  have quotient : r₁ * 1 ≤ r₁ * (r₀ / r₁) := Nat.mul_le_mul_left r₁ (Nat.div_pos lt.le pos)
  have small : r₀ % r₁ < r₁ := Nat.mod_lt r₀ pos
  have halved : 2 * (r₀ % r₁) < r₀ := by omega
  calc 2 * (r₁ * (r₀ % r₁)) = r₁ * (2 * (r₀ % r₁)) := by ring
    _ < r₁ * r₀ := Nat.mul_lt_mul_of_pos_left halved pos
    _ = r₀ * r₁ := Nat.mul_comm r₁ r₀

/-- The loop's invariant: the remainders are coprime, `t₀` and `t₁` times `a` are congruent to them, and their product
is below what the fuel can halve. What the loop returns is then inverse to `a` (R121). -/
theorem euclidLoop_inverts {m a : Nat} (fuel : Nat) {r₀ r₁ : Nat} {t₀ t₁ : Int} (lt : r₁ < r₀)
    (enough : r₀ * r₁ < 2 ^ fuel) (coprime : Nat.Coprime r₀ r₁) (h₀ : t₀ * a ≡ r₀ [ZMOD m])
    (h₁ : t₁ * a ≡ r₁ [ZMOD m]) : euclidLoop fuel r₀ r₁ t₀ t₁ * a ≡ 1 [ZMOD m] := by
  induction fuel generalizing r₀ r₁ t₀ t₁ with
  | zero =>
    obtain rfl : r₁ = 0 := by
      have : r₀ * r₁ = 0 := by simpa using enough
      rcases Nat.mul_eq_zero.mp this with h | h
      · omega
      · exact h
    obtain rfl : r₀ = 1 := by simpa using coprime
    simpa using h₀
  | succ fuel ih =>
    rcases Nat.eq_zero_or_pos r₁ with rfl | pos
    · obtain rfl : r₀ = 1 := by simpa using coprime
      simpa using h₀
    · rw [euclidLoop, if_neg (by omega)]
      have halved := two_mul_remainders_lt pos lt
      refine ih (Nat.mod_lt r₀ pos) (by rw [Nat.pow_succ] at enough; omega) ?_ h₁ ?_
      · rw [Nat.Coprime, Nat.gcd_comm, ← Nat.gcd_rec, Nat.gcd_comm]
        exact coprime
      · have remainder : ((r₀ % r₁ : Nat) : Int) = r₀ - (r₀ / r₁ : Nat) * r₁ := by
          rw [eq_sub_iff_add_eq]
          exact_mod_cast Nat.mod_add_div' r₀ r₁
        calc (t₀ - (r₀ / r₁ : Nat) * t₁) * a = t₀ * a - (r₀ / r₁ : Nat) * (t₁ * a) := by ring
          _ ≡ r₀ - (r₀ / r₁ : Nat) * r₁ [ZMOD m] := h₀.sub (h₁.mul_left _)
          _ = (r₀ % r₁ : Nat) := remainder.symm

theorem mul_lt_two_pow {a b m n : Nat} (ha : a < 2 ^ m) (hb : b < 2 ^ m) (le : m + m ≤ n) : a * b < 2 ^ n :=
  calc a * b < 2 ^ m * 2 ^ m := Nat.mul_lt_mul'' ha hb
    _ = 2 ^ (m + m) := (Nat.pow_add 2 m m).symm
    _ ≤ 2 ^ n := Nat.pow_le_pow_right (by decide) le

/-- `inv(a)` answers a field element whose product with `a` is 1 modulo `p`, unless `a` is a multiple of `p` (R121). -/
theorem modInverse_inverts {a : Nat} (h : a % fieldPrime ≠ 0) :
    ∃ v, modInverse a = .ok v ∧ v < fieldPrime ∧ v * a ≡ 1 [MOD fieldPrime] := by
  have pos : (0 : Int) < fieldPrime := by decide
  have lt : a % fieldPrime < fieldPrime := Nat.mod_lt a (by decide)
  have bound : fieldPrime < 2 ^ 256 := by decide
  have enough : fieldPrime * (a % fieldPrime) < 2 ^ euclidFuel := mul_lt_two_pow bound (lt.trans bound) (by decide)
  have coprime : Nat.Coprime fieldPrime (a % fieldPrime) :=
    Nat.coprime_of_lt_prime h lt Laws.fieldPrime_prime
  have inverts := euclidLoop_inverts (m := fieldPrime) (a := a) euclidFuel (t₀ := 0) (t₁ := 1) lt enough coprime
    (by simp [Int.ModEq]) (by simp [Int.ModEq])
  rw [modInverse, if_neg h]
  generalize euclidLoop euclidFuel fieldPrime (a % fieldPrime) 0 1 = r at inverts
  have reduced : ((r % fieldPrime).toNat : Int) = r % fieldPrime := Int.toNat_of_nonneg (Int.emod_nonneg r pos.ne')
  refine ⟨_, rfl, ?_, ?_⟩
  · have := Int.emod_lt_of_pos r pos
    omega
  · rw [← Int.natCast_modEq_iff, Nat.cast_mul, reduced]
    exact ((Int.mod_modEq r fieldPrime).mul_right a).trans inverts

end Sys2Proof.Machine
end

section
/-! The point arithmetic of R123 to R126 is the group law of the curve: each point value on the curve denotes a point of
Mathlib's Weierstrass curve `y^2 = x^3 + 7` over the field of `p` elements, whose points are a commutative group. -/

namespace Sys2Proof.Machine

/-! The field (R12). -/

theorem fieldPrime_pos : 0 < fieldPrime := by decide

theorem fieldSub_lt (a b : Nat) : fieldSub a b < fieldPrime := Nat.mod_lt _ fieldPrime_pos

@[simp] theorem cast_fieldAdd (a b : Nat) : (fieldAdd a b : ZMod fieldPrime) = a + b := by
  simp [fieldAdd]

@[simp] theorem cast_fieldMul (a b : Nat) : (fieldMul a b : ZMod fieldPrime) = a * b := by
  simp [fieldMul]

@[simp] theorem cast_fieldSub (a b : Nat) : (fieldSub a b : ZMod fieldPrime) = a - b := by
  rw [fieldSub, ZMod.natCast_mod, Nat.cast_add, Nat.cast_sub (Nat.mod_lt b fieldPrime_pos).le, ZMod.natCast_mod,
    ZMod.natCast_self]
  ring

theorem cast_eq_zero_iff (a : Nat) : (a : ZMod fieldPrime) = 0 ↔ a % fieldPrime = 0 := by
  rw [ZMod.natCast_eq_zero_iff, Nat.dvd_iff_mod_eq_zero]

/-- Field elements are equal when their residues are. -/
theorem cast_inj_of_lt {a b : Nat} (ha : a < fieldPrime) (hb : b < fieldPrime) :
    (a : ZMod fieldPrime) = b ↔ a = b := by
  rw [ZMod.natCast_eq_natCast_iff', Nat.mod_eq_of_lt ha, Nat.mod_eq_of_lt hb]

theorem two_ne_zero_mod_fieldPrime : (2 : ZMod fieldPrime) ≠ 0 := by
  have h := (cast_eq_zero_iff 2).not.mpr (by decide)
  exact_mod_cast h

section Field

variable [Fact fieldPrime.Prime]

/-- Where the operand is not zero in the field, `inv` answers its inverse there (R121). -/
theorem modInverse_eq_inv {a : Nat} (h : (a : ZMod fieldPrime) ≠ 0) :
    ∃ v, modInverse a = .ok v ∧ (v : ZMod fieldPrime) = (a : ZMod fieldPrime)⁻¹ := by
  obtain ⟨v, answers, -, inverse⟩ := modInverse_inverts ((cast_eq_zero_iff a).not.mp h)
  refine ⟨v, answers, eq_inv_of_mul_eq_one_left ?_⟩
  have := (ZMod.natCast_eq_natCast_iff _ _ _).mpr inverse
  simpa using this

end Field

/-! The curve (R30). -/

/-- The curve of R30, `y^2 = x^3 + A x + B`, over the field of `p` elements. -/
@[simps] def secp256k1 : WeierstrassCurve.Affine (ZMod fieldPrime) :=
  { a₁ := 0, a₂ := 0, a₃ := 0, a₄ := (coefficientA : Nat), a₆ := (coefficientB : Nat) }

/-- `isOnCurve` decides the curve's equation (R129). -/
theorem isOnCurve_iff_equation (x y : Nat) :
    isOnCurve (.aff x y) = true ↔ secp256k1.Equation (x : ZMod fieldPrime) (y : ZMod fieldPrime) := by
  have lt_mul : fieldMul y y < fieldPrime := Nat.mod_lt _ fieldPrime_pos
  have lt_add (a b : Nat) : fieldAdd a b < fieldPrime := Nat.mod_lt _ fieldPrime_pos
  rw [isOnCurve, beq_iff_eq, ← cast_inj_of_lt lt_mul (lt_add _ _), WeierstrassCurve.Affine.equation_iff]
  simp only [cast_fieldAdd, cast_fieldMul, secp256k1_a₁, secp256k1_a₂, secp256k1_a₃, secp256k1_a₄, secp256k1_a₆]
  ring_nf

/-- No point of the curve has `y = 0`: `-7` is no cube modulo `p` (R126). -/
theorem equation_y_ne_zero {x y : Nat} (h : secp256k1.Equation (x : ZMod fieldPrime) (y : ZMod fieldPrime)) :
    (y : ZMod fieldPrime) ≠ 0 := by
  intro zero
  rw [WeierstrassCurve.Affine.equation_iff, zero] at h
  apply Laws.no_root_of_curve x
  rw [← cast_eq_zero_iff]
  simp only [secp256k1_a₁, secp256k1_a₂, secp256k1_a₃, secp256k1_a₄, secp256k1_a₆, coefficientA, coefficientB] at h
  push_cast at h ⊢
  linear_combination -h

/-- Every point of the curve is nonsingular, since `2 y` is not 0 there. -/
theorem equation_nonsingular [Fact fieldPrime.Prime] {x y : Nat}
    (h : secp256k1.Equation (x : ZMod fieldPrime) (y : ZMod fieldPrime)) :
    secp256k1.Nonsingular (x : ZMod fieldPrime) (y : ZMod fieldPrime) := by
  refine (WeierstrassCurve.Affine.nonsingular_iff' ..).mpr ⟨h, .inr ?_⟩
  simpa using ⟨two_ne_zero_mod_fieldPrime, equation_y_ne_zero h⟩

/-- `P` is the point value (R12) of the point `X` of the curve's group. -/
def Point.Denotes : Point → secp256k1.Point → Prop
  | .inf, X => X = 0
  | .aff x y, X =>
    x < fieldPrime ∧ y < fieldPrime ∧
      ∃ h : secp256k1.Nonsingular (x : ZMod fieldPrime) (y : ZMod fieldPrime), X = .some _ _ h

theorem Point.denotes_inf : Point.inf.Denotes 0 := rfl

/-- The point values that denote a point are those on the curve (R129). -/
theorem Point.ofCurve_iff_denotes [Fact fieldPrime.Prime] (P : Point) : P.OfCurve ↔ ∃ X, P.Denotes X := by
  cases P with
  | inf => exact ⟨fun _ => ⟨0, rfl⟩, fun _ => trivial⟩
  | aff x y =>
    constructor
    · rintro ⟨hx, hy, on⟩
      exact ⟨_, hx, hy, equation_nonsingular ((isOnCurve_iff_equation x y).mp on), rfl⟩
    · rintro ⟨X, hx, hy, nonsingular, -⟩
      exact ⟨hx, hy, (isOnCurve_iff_equation x y).mpr nonsingular.left⟩

/-- A point of the group has one point value. -/
theorem Point.Denotes.unique {P Q : Point} {X : secp256k1.Point} (hP : P.Denotes X) (hQ : Q.Denotes X) : P = Q := by
  cases P with
  | inf =>
    cases Q with
    | inf => rfl
    | aff x y =>
      obtain rfl : X = 0 := hP
      obtain ⟨-, -, nonsingular, affine⟩ := hQ
      cases affine
  | aff x₁ y₁ =>
    obtain ⟨hx₁, hy₁, nonsingular, rfl⟩ := hP
    cases Q with
    | inf => cases hQ
    | aff x₂ y₂ =>
      obtain ⟨hx₂, hy₂, _, same⟩ := hQ
      obtain ⟨hx, hy⟩ := (WeierstrassCurve.Affine.Point.some.injEq ..).mp same
      rw [(cast_inj_of_lt hx₁ hx₂).mp hx, (cast_inj_of_lt hy₁ hy₂).mp hy]

/-! The bits of the scalar (R126). -/

/-- The low `turns + 1` bits from bit `i` on: bit `i`, and twice the low `turns` bits from the next one. -/
theorem bits_from_succ (k i turns : Nat) :
    k / 2 ^ i % 2 ^ (turns + 1) = (k.testBit i).toNat + 2 * (k / 2 ^ (i + 1) % 2 ^ turns) := by
  rw [Nat.pow_succ', Nat.mod_mul, Nat.div_div_eq_div_mul, ← Nat.pow_succ, Nat.toNat_testBit]

/-! Addition and doubling (R123, R124). -/

/-- The test of R123 case 4 is that the second point is the opposite of the first. -/
theorem fieldAdd_eq_zero_iff (x y₁ y₂ : Nat) :
    fieldAdd y₁ y₂ = 0 ↔ (y₁ : ZMod fieldPrime) = secp256k1.negY x y₂ := by
  have lt : fieldAdd y₁ y₂ < fieldPrime := Nat.mod_lt _ fieldPrime_pos
  rw [← cast_inj_of_lt lt fieldPrime_pos, cast_fieldAdd, Nat.cast_zero, add_eq_zero_iff_eq_neg]
  simp [WeierstrassCurve.Affine.negY]

section GroupLaw

variable [Fact fieldPrime.Prime]

open WeierstrassCurve.Affine

/-- The chord or tangent construction with the right slope gives the sum in the group (R123 case 5, R124 case 3). -/
theorem chordPoint_denotes {lam x₁ y₁ x₂ y₂ : Nat}
    (h₁ : secp256k1.Nonsingular (x₁ : ZMod fieldPrime) (y₁ : ZMod fieldPrime))
    (h₂ : secp256k1.Nonsingular (x₂ : ZMod fieldPrime) (y₂ : ZMod fieldPrime))
    (notOpposite : ¬((x₁ : ZMod fieldPrime) = x₂ ∧ (y₁ : ZMod fieldPrime) = secp256k1.negY x₂ y₂))
    (slope : (lam : ZMod fieldPrime) = secp256k1.slope x₁ x₂ y₁ y₂) :
    (chordPoint lam x₁ y₁ x₂).Denotes (.some _ _ h₁ + .some _ _ h₂) := by
  have sum := nonsingular_add h₁ h₂ notOpposite
  rw [Point.add_some notOpposite]
  have hx : (fieldSub (fieldSub (fieldMul lam lam) x₁) x₂ : ZMod fieldPrime) =
      secp256k1.addX x₁ x₂ (secp256k1.slope x₁ x₂ y₁ y₂) := by
    simp only [cast_fieldSub, cast_fieldMul, slope, addX, secp256k1_a₁, secp256k1_a₂]
    ring
  have hy : (fieldSub (fieldMul lam (fieldSub x₁ (fieldSub (fieldSub (fieldMul lam lam) x₁) x₂))) y₁ :
      ZMod fieldPrime) = secp256k1.addY x₁ x₂ y₁ (secp256k1.slope x₁ x₂ y₁ y₂) := by
    rw [cast_fieldSub, cast_fieldMul, cast_fieldSub x₁, hx]
    simp only [slope, addY, negAddY, negY, secp256k1_a₁, secp256k1_a₃]
    ring
  refine ⟨fieldSub_lt _ _, fieldSub_lt _ _, ?_⟩
  rw [hx, hy]
  exact ⟨sum, rfl⟩

/-- On the curve doubling answers, and doubles in the group (R124). -/
theorem pointDouble_denotes {P : Point} {X : secp256k1.Point} (h : P.Denotes X) :
    ∃ R, pointDouble P = .ok R ∧ R.Denotes (X + X) := by
  cases P with
  | inf =>
    obtain rfl : X = 0 := h
    exact ⟨.inf, rfl, add_zero _⟩
  | aff x y =>
    obtain ⟨-, -, nonsingular, rfl⟩ := h
    have hy := equation_y_ne_zero nonsingular.left
    have hy' : y ≠ 0 := by rintro rfl; exact hy Nat.cast_zero
    have double : (fieldMul 2 y : ZMod fieldPrime) ≠ 0 := by
      simpa using ⟨two_ne_zero_mod_fieldPrime, hy⟩
    obtain ⟨v, answers, inverse⟩ := modInverse_eq_inv double
    have notOpposite : (y : ZMod fieldPrime) ≠ secp256k1.negY x y := by
      simp only [negY, secp256k1_a₁, secp256k1_a₃]
      intro opposite
      apply double
      rw [cast_fieldMul]
      push_cast
      linear_combination opposite
    refine ⟨_, by rw [pointDouble, if_neg hy', stage_as_match, answers], ?_⟩
    refine chordPoint_denotes nonsingular nonsingular (fun both => notOpposite both.2) ?_
    rw [slope_of_Y_ne rfl notOpposite]
    simp only [cast_fieldMul, cast_fieldAdd, inverse, negY, secp256k1_a₁, secp256k1_a₂,
      secp256k1_a₃, secp256k1_a₄]
    push_cast
    ring

/-- On the curve addition answers, and adds in the group (R123). -/
theorem pointAdd_denotes {P Q : Point} {X Y : secp256k1.Point} (hP : P.Denotes X) (hQ : Q.Denotes Y) :
    ∃ R, pointAdd P Q = .ok R ∧ R.Denotes (X + Y) := by
  cases P with
  | inf =>
    obtain rfl : X = 0 := hP
    exact ⟨Q, by cases Q <;> rfl, by rwa [zero_add]⟩
  | aff x₁ y₁ =>
    cases Q with
    | inf =>
      obtain rfl : Y = 0 := hQ
      exact ⟨_, rfl, by rwa [add_zero]⟩
    | aff x₂ y₂ =>
      obtain ⟨hx₁, hy₁, nonsingular₁, rfl⟩ := id hP
      obtain ⟨hx₂, hy₂, nonsingular₂, rfl⟩ := id hQ
      have sameX := cast_inj_of_lt hx₁ hx₂
      rw [pointAdd]
      split_ifs with equal opposite
      · obtain ⟨rfl, rfl⟩ := equal
        exact pointDouble_denotes hP
      · obtain ⟨rfl, cancels⟩ := opposite
        refine ⟨.inf, rfl, ?_⟩
        exact Point.add_of_Y_eq rfl ((fieldAdd_eq_zero_iff x₁ y₁ y₂).mp cancels)
      · have differ : (x₁ : ZMod fieldPrime) ≠ x₂ := by
          intro same
          rcases Y_eq_of_X_eq nonsingular₁.left nonsingular₂.left same with sameY | negated
          · exact equal ⟨sameX.mp same, (cast_inj_of_lt hy₁ hy₂).mp sameY⟩
          · exact opposite ⟨sameX.mp same, (fieldAdd_eq_zero_iff x₂ y₁ y₂).mpr negated⟩
        have denominator : ((fieldSub x₂ x₁ : Nat) : ZMod fieldPrime) ≠ 0 := by
          rw [cast_fieldSub]
          exact sub_ne_zero.mpr differ.symm
        obtain ⟨v, answers, inverse⟩ := modInverse_eq_inv denominator
        refine ⟨_, by rw [stage_as_match, answers], ?_⟩
        refine chordPoint_denotes nonsingular₁ nonsingular₂ (fun both => differ both.1) ?_
        rw [slope_of_X_ne differ, cast_fieldMul, inverse, cast_fieldSub, cast_fieldSub, ← div_eq_mul_inv,
          ← neg_sub (y₁ : ZMod fieldPrime), ← neg_sub (x₁ : ZMod fieldPrime), neg_div_neg_eq]

/-! Scalar multiplication (R126) and repeated addition (R16). -/

/-- Repeated addition takes the multiple in the group (R16). -/
theorem repeatedAddition_denotes {P : Point} {X : secp256k1.Point} (h : P.Denotes X) (k : Nat) :
    ∃ R, repeatedAddition P k = .ok R ∧ R.Denotes (k • X) := by
  induction k with
  | zero => exact ⟨.inf, rfl, zero_nsmul X⟩
  | succ k ih =>
    obtain ⟨R, answers, hR⟩ := ih
    simpa only [repeatedAddition, answers, succ_nsmul] using pointAdd_denotes hR h

/-- The iterations from bit `i` on add to the accumulator the multiple of the running point that the next `turns` bits of
the scalar make (R126). -/
theorem doubleAndAdd_denotes (k : Scalar) (turns i : Nat) {R Q : Point} {X Y : secp256k1.Point} (hR : R.Denotes X)
    (hQ : Q.Denotes Y) :
    ∃ S, doubleAndAdd k turns i R Q = .ok S ∧ S.Denotes (X + (k.toNat / 2 ^ i % 2 ^ turns) • Y) := by
  induction turns generalizing i R Q X Y with
  | zero => exact ⟨R, rfl, by simpa [Nat.mod_one] using hR⟩
  | succ turns ih =>
    obtain ⟨R', added, hR'⟩ : ∃ R', (if k.getLsbD i then pointAdd R Q else .ok R) = .ok R' ∧
        R'.Denotes (X + (k.getLsbD i).toNat • Y) := by
      cases k.getLsbD i with
      | true => simpa using pointAdd_denotes hR hQ
      | false => exact ⟨R, rfl, by simpa using hR⟩
    obtain ⟨Q', doubled, hQ'⟩ := pointDouble_denotes hQ
    obtain ⟨S, answers, hS⟩ := ih (i + 1) hR' hQ'
    refine ⟨S, by rw [doubleAndAdd_succ, added, doubled]; exact answers, ?_⟩
    have sum : X + (k.toNat / 2 ^ i % 2 ^ (turns + 1)) • Y =
        X + (k.getLsbD i).toNat • Y + (k.toNat / 2 ^ (i + 1) % 2 ^ turns) • (Y + Y) := by
      rw [bits_from_succ, BitVec.testBit_toNat, add_nsmul, mul_nsmul, two_nsmul, add_assoc]
    rwa [sum]

/-- All 256 iterations take the multiple by the whole scalar (R126). -/
theorem scalarMultiply_denotes (k : Scalar) {P : Point} {X : secp256k1.Point} (h : P.Denotes X) :
    ∃ R, scalarMultiply k P = .ok R ∧ R.Denotes (k.toNat • X) := by
  have whole : k.toNat / 2 ^ 0 % 2 ^ 256 = k.toNat := by
    rw [Nat.pow_zero, Nat.div_one, Nat.mod_eq_of_lt k.isLt]
  simpa only [scalarMultiply, whole, zero_add] using doubleAndAdd_denotes k 256 0 Point.denotes_inf h

end GroupLaw

/-- Settles O39: both sides are the point value of the same multiple in the curve's group. -/
theorem smulIsRepeatedAddition : Obligations.SmulIsRepeatedAddition := by
  intro k P onCurve
  have : Fact fieldPrime.Prime := ⟨Laws.fieldPrime_prime⟩
  obtain ⟨X, hX⟩ := P.ofCurve_iff_denotes.mp onCurve
  obtain ⟨R, multiplied, hR⟩ := scalarMultiply_denotes k hX
  obtain ⟨S, added, hS⟩ := repeatedAddition_denotes hX k.toNat
  rw [multiplied, added, hR.unique hS]

end Sys2Proof.Machine
end

section
/-! The point values on the curve are closed under the addition and the doubling of R123 and R124. -/

namespace Sys2Proof.Machine

/-- Settles O37: the sum and the double of points of the group are points of the group. -/
theorem curveIsClosed : Obligations.CurveIsClosed := by
  intro P Q hP hQ
  have : Fact fieldPrime.Prime := ⟨Laws.fieldPrime_prime⟩
  obtain ⟨X, denotesP⟩ := P.ofCurve_iff_denotes.mp hP
  obtain ⟨Y, denotesQ⟩ := Q.ofCurve_iff_denotes.mp hQ
  obtain ⟨R, added, hR⟩ := pointAdd_denotes denotesP denotesQ
  obtain ⟨D, doubled, hD⟩ := pointDouble_denotes denotesP
  exact ⟨⟨R, added, R.ofCurve_iff_denotes.mpr ⟨_, hR⟩⟩, D, doubled, D.ofCurve_iff_denotes.mpr ⟨_, hD⟩⟩

end Sys2Proof.Machine
end

section
/-! What a command writes, as data. A command reads its registers, the input below `ILEN` and the accumulator,
computes a list of writes from them, and ends with these writes done or in the abort (R14, R72, R236). Every frame of
the commands and every statement of what they do not read follows from that one description. -/

namespace Sys2Proof.Machine

/-- The writes of a command that ends `Ok`, by the part of the state written; `none` where it writes nothing. -/
structure Writes where
  /-- `S[rd] <- v`. -/
  scalar : Option (RegIndex × Scalar) := none
  /-- `PT[rd] <- P`. -/
  point : Option (RegIndex × PointRegister) := none
  /-- `FLAGS.T <- v`. -/
  flagT : Option Bool := none
  /-- `FLAGS.C <- c; FLAGS.VER <- ver`. -/
  flagsWif : Option (Bool × Byte) := none
  /-- The new Hash-A accumulator. -/
  accumulator : Option HashAccumulator := none
  /-- `out(b)`. -/
  output : Option Bytes := none

/-- The registers after at most one of them is written. -/
def writeRegister {α : Type} (registers : Vector α 4) (write : Option (RegIndex × α)) : Vector α 4 :=
  write.elim registers fun p => registers.set p.1 p.2

/-- A register that changed is the one written. -/
theorem register_written {α : Type} {registers : Vector α 4} {write : Option (RegIndex × α)} {k : RegIndex}
    (changed : (writeRegister registers write)[k] ≠ registers[k]) : write.map Prod.fst = some k := by
  cases write with
  | none => exact absurd rfl changed
  | some p =>
    by_contra other
    have ne : p.1.val ≠ k.val := fun same => other (congrArg some (Fin.ext same))
    exact changed (Vector.getElem_set_ne p.1.isLt k.isLt ne)

/-- The state with the writes done. -/
def Writes.apply (w : Writes) (s : State) : State :=
  { s with
    S := writeRegister s.S w.scalar
    PT := writeRegister s.PT w.point
    flags :=
      { t := w.flagT.getD s.flags.t
        c := (w.flagsWif.map Prod.fst).getD s.flags.c
        ver := (w.flagsWif.map Prod.snd).getD s.flags.ver }
    ha := w.accumulator.getD s.ha
    obuf := w.output.elim s.obuf (s.obuf.writeBytes 0)
    olen := w.output.elim s.olen fun b => BitVec.ofNat 9 b.length }

section

variable (w : Writes) (s : State)

@[simp] theorem Writes.apply_flags : (w.apply s).flags =
    { t := w.flagT.getD s.flags.t
      c := (w.flagsWif.map Prod.fst).getD s.flags.c
      ver := (w.flagsWif.map Prod.snd).getD s.flags.ver } := rfl
@[simp] theorem Writes.apply_obuf : (w.apply s).obuf = w.output.elim s.obuf (s.obuf.writeBytes 0) := rfl
@[simp] theorem Writes.apply_olen :
    (w.apply s).olen = w.output.elim s.olen fun b => BitVec.ofNat 9 b.length := rfl
@[simp] theorem Writes.apply_epoch : (w.apply s).epoch = s.epoch := rfl

end

/-- The end of a command (R72, R236) that began in `s`: its writes done and completed, or the abort. -/
def State.endWith (s : State) : Except CommandError Writes → State
  | .ok w => (w.apply s).completeOk
  | .error e => s.abort e

/-- The test of `out(b)` (R234): the string, if it fits in `OBUF`. -/
def State.checkedOutput (s : State) (b : Bytes) : Except CommandError Bytes :=
  if b.length > s.sizes.obuf then .error .bufferOverflow else .ok b

/-- `out(b)` is its test and then its writes (R13). -/
theorem State.out_eq_checkedOutput (s : State) (b : Bytes) :
    s.out b = (do let b ← s.checkedOutput b; .ok (s.putOutput b)) := by
  unfold State.out State.checkedOutput
  split_ifs <;> rfl

theorem State.checkedOutput_eq_ok {s : State} {b c : Bytes} (h : s.checkedOutput b = .ok c) :
    c.length ≤ s.sizes.obuf := by
  unfold State.checkedOutput at h
  split_ifs at h with fits
  obtain rfl : b = c := by simpa using h
  omega

/-- What each command computes: its writes, or the error it raises (R96 and the rules of each command). -/
def writesOf (i : Instr) (s : State) : Except CommandError Writes :=
  match i with
  | .modinv rd ra => do
    let r ← modInverse (s.scalar ra).toNat
    .ok { scalar := some (rd, BitVec.ofNat 256 r) }
  | .padd rd ra rb => do
    let P ← s.getpt ra
    let Q ← s.getpt rb
    let R ← pointAdd P Q
    .ok { point := some (rd, R.register) }
  | .pdbl rd ra => do
    let P ← s.getpt ra
    let R ← pointDouble P
    .ok { point := some (rd, R.register) }
  | .smul rd ra rb => do
    let P ← s.getpt ra
    let R ← scalarMultiply (s.scalar rb) P
    .ok { point := some (rd, R.register) }
  | .oncurve ra => do
    let P ← s.getpt ra
    .ok { flagT := some (isOnCurve P) }
  | .keyvalid ra => .ok { flagT := some (isValidPrivateKey (s.scalar ra)) }
  | .pldg rd => .ok { point := some (rd, generator.register) }
  | .haInit => .ok { accumulator := some HashAccumulator.fresh }
  | .haUpdate => do
    let a ← s.activeAccumulator
    let d ← s.checkedInput
    .ok { accumulator := some (a.append d) }
  | .haDigest => do
    let a ← s.activeAccumulator
    let digest ← s.checkedOutput a.finalWords.digest
    .ok { accumulator := some a.finalised, output := some digest }
  | .hbHash => do
    let m ← s.checkedInput
    let digest ← s.checkedOutput (hashB m)
    .ok { output := some digest }
  | .b58enc => do
    let b ← s.checkedInput
    let text ← s.checkedOutput (b58encode b)
    .ok { output := some text }
  | .b58dec => do
    let text ← s.checkedInput
    let raw ← b58decode text
    let b ← s.checkedOutput raw
    .ok { output := some b }
  | .b58cenc => do
    let payload ← s.checkedInput
    let text ← s.checkedOutput (b58checkEncode payload)
    .ok { output := some text }
  | .b58cdec => do
    let text ← s.checkedInput
    let payload ← b58checkDecode 4 text
    let b ← s.checkedOutput payload
    .ok { output := some b }
  | .derivepub rd ra c => do
    let k ← requireValidKey (s.scalar ra)
    let Q ← scalarMultiply k generator
    let xy ← requireOnCurve Q
    let b ← s.checkedOutput (serialize xy.1 xy.2 c)
    .ok { point := some (rd, Q.register), output := some b }
  | .deriveaddr => do
    let key ← s.checkedInput
    let text ← s.checkedOutput (b58checkEncode (0x00 :: hash160 key))
    .ok { output := some text }
  | .wifenc ra c t => do
    let text ← s.checkedOutput (b58checkEncode (wifPayload (s.scalar ra) c t))
    .ok { output := some text }
  | .wifdec rd => do
    let text ← s.checkedInput
    let payload ← b58checkDecode 5 text
    let parts ← wifParts payload
    .ok { scalar := some (rd, parts.1), flagsWif := some parts.2 }

/-! The description is what `exec` does. -/

/-- A stage in front of a command and in front of its writes (R14). -/
theorem finish_stage_eq_endWith {s : State} {α : Type} {stage : Except CommandError α}
    {after : α → Except CommandError State} {writes : α → Except CommandError Writes}
    (h : ∀ value, s.finish (after value) = .next (s.endWith (writes value))) :
    s.finish (do let value ← stage; after value) =
      .next (s.endWith (do let value ← stage; writes value)) := by
  cases stage with
  | error e => rfl
  | ok value => exact h value

/-- `out` in front of a command, and its test in front of the writes. -/
theorem finish_out_eq_endWith {s u : State} {b : Bytes} {after : State → Except CommandError State}
    {writes : Bytes → Except CommandError Writes} (sizes : u.sizes = s.sizes)
    (h : ∀ b, s.finish (after (u.putOutput b)) = .next (s.endWith (writes b))) :
    s.finish (do let t ← u.out b; after t) =
      .next (s.endWith (do let b ← s.checkedOutput b; writes b)) := by
  have test : u.checkedOutput b = s.checkedOutput b := by rw [State.checkedOutput, sizes, State.checkedOutput]
  rw [State.out_eq_checkedOutput, test]
  cases s.checkedOutput b with
  | error e => rfl
  | ok b => exact h b

/-- `out` at the end of a command. -/
theorem finish_last_out_eq_endWith {s u : State} {b : Bytes} {writes : Bytes → Writes} (sizes : u.sizes = s.sizes)
    (h : ∀ b, u.putOutput b = (writes b).apply s) :
    s.finish (u.out b) = .next (s.endWith (do let b ← s.checkedOutput b; .ok (writes b))) := by
  rw [← bind_pure (u.out b)]
  exact finish_out_eq_endWith sizes fun b => congrArg (s.finish ∘ .ok) (h b)

/-- Every command ends with the writes it computes done, or in the abort with the error it raises. -/
theorem exec_eq_endWith (i : Instr) (s : State) : exec i s = .next (s.endWith (writesOf i s)) := by
  cases i with
  | modinv rd ra => exact finish_stage_eq_endWith fun _ => rfl
  | padd rd ra rb =>
    exact finish_stage_eq_endWith fun _ => finish_stage_eq_endWith fun _ => finish_stage_eq_endWith fun _ => rfl
  | pdbl rd ra => exact finish_stage_eq_endWith fun _ => finish_stage_eq_endWith fun _ => rfl
  | smul rd ra rb => exact finish_stage_eq_endWith fun _ => finish_stage_eq_endWith fun _ => rfl
  | oncurve ra => exact finish_stage_eq_endWith fun _ => rfl
  | keyvalid ra => rfl
  | pldg rd => rfl
  | haInit => rfl
  | haUpdate => exact finish_stage_eq_endWith fun _ => finish_stage_eq_endWith fun _ => rfl
  | haDigest => exact finish_stage_eq_endWith fun _ => finish_out_eq_endWith rfl fun _ => rfl
  | hbHash => exact finish_stage_eq_endWith fun _ => finish_last_out_eq_endWith rfl fun _ => rfl
  | b58enc => exact finish_stage_eq_endWith fun _ => finish_last_out_eq_endWith rfl fun _ => rfl
  | b58dec =>
    exact finish_stage_eq_endWith fun _ => finish_stage_eq_endWith fun _ => finish_last_out_eq_endWith rfl fun _ => rfl
  | b58cenc => exact finish_stage_eq_endWith fun _ => finish_last_out_eq_endWith rfl fun _ => rfl
  | b58cdec =>
    exact finish_stage_eq_endWith fun _ => finish_stage_eq_endWith fun _ => finish_last_out_eq_endWith rfl fun _ => rfl
  | derivepub rd ra c =>
    exact finish_stage_eq_endWith fun _ => finish_stage_eq_endWith fun _ => finish_stage_eq_endWith fun _ =>
      finish_last_out_eq_endWith rfl fun _ => rfl
  | deriveaddr => exact finish_stage_eq_endWith fun _ => finish_last_out_eq_endWith rfl fun _ => rfl
  | wifenc ra c t => exact finish_last_out_eq_endWith rfl fun _ => rfl
  | wifdec rd =>
    exact finish_stage_eq_endWith fun _ => finish_stage_eq_endWith fun _ => finish_stage_eq_endWith fun _ => rfl

/-! Which parts a command writes. -/

/-- The scalar register a command writes (R21). -/
def scalarTarget : Instr → Option RegIndex
  | .modinv rd _ => some rd
  | .wifdec rd => some rd
  | _ => none

/-- The point register a command writes (R35). -/
def pointTarget : Instr → Option RegIndex
  | .padd rd _ _ => some rd
  | .pdbl rd _ => some rd
  | .smul rd _ _ => some rd
  | .pldg rd => some rd
  | .derivepub rd _ _ => some rd
  | _ => none

/-- The commands that write `FLAGS.T` (R23). -/
def writesFlagT : Instr → Bool
  | .oncurve _ => true
  | .keyvalid _ => true
  | _ => false

/-- The command that writes `FLAGS.C` and `FLAGS.VER` (R23). -/
def writesFlagsWif : Instr → Bool
  | .wifdec _ => true
  | _ => false

theorem scalarTarget_eq_some {i : Instr} {k : RegIndex} (h : scalarTarget i = some k) :
    (∃ ra, i = .modinv k ra) ∨ i = .wifdec k := by
  cases i <;> simp_all [scalarTarget]

theorem pointTarget_eq_some {i : Instr} {k : RegIndex} (h : pointTarget i = some k) :
    (∃ ra rb, i = .padd k ra rb) ∨ (∃ ra, i = .pdbl k ra) ∨ (∃ ra rb, i = .smul k ra rb) ∨ i = .pldg k ∨
      ∃ ra c, i = .derivepub k ra c := by
  cases i <;> simp_all [pointTarget]

theorem writesFlagT_iff (i : Instr) :
    writesFlagT i = true ↔ (∃ ra, i = .oncurve ra) ∨ ∃ ra, i = .keyvalid ra := by
  cases i <;> simp [writesFlagT]

theorem writesFlagsWif_iff (i : Instr) : writesFlagsWif i = true ↔ ∃ rd, i = .wifdec rd := by
  cases i <;> simp [writesFlagsWif]

/-- `w` writes the parts that `i` writes, and its output fits. The defaults prove a part that stands in `w` as in the
tables above. -/
structure Writes.AllowedBy (w : Writes) (i : Instr) (s : State) : Prop where
  scalar : w.scalar.map Prod.fst = scalarTarget i := by rfl
  point : w.point.map Prod.fst = pointTarget i := by rfl
  flagT : w.flagT.isSome = writesFlagT i := by rfl
  flagsWif : w.flagsWif.isSome = writesFlagsWif i := by rfl
  accumulator : w.accumulator.isSome = usesAccumulator i := by rfl
  output : w.output.isSome = producesOutput i := by rfl
  fits : ∀ b, w.output = some b → b.length ≤ s.sizes.obuf := by nofun

/-- A computation answers, when it does, writes that `i` may make. -/
def AnswersAllowed (i : Instr) (s : State) (r : Except CommandError Writes) : Prop :=
  ∀ w, r = .ok w → w.AllowedBy i s

section

variable {i : Instr} {s : State}

theorem answersAllowed_ok {w : Writes} (h : w.AllowedBy i s) : AnswersAllowed i s (.ok w) := by
  rintro _ ⟨⟩
  exact h

/-- A stage in front of a computation (R14). -/
theorem answersAllowed_stage {α : Type} {stage : Except CommandError α} {after : α → Except CommandError Writes}
    (h : ∀ value, AnswersAllowed i s (after value)) : AnswersAllowed i s (do let value ← stage; after value) := by
  cases stage with
  | error e => rintro w ⟨⟩
  | ok value => exact h value

/-- The test of the output in front of the writes: they may then write the string, which fits. -/
theorem answersAllowed_output {b : Bytes} {writes : Bytes → Writes}
    (h : ∀ b, b.length ≤ s.sizes.obuf → (writes b).AllowedBy i s) :
    AnswersAllowed i s (do let b ← s.checkedOutput b; .ok (writes b)) := by
  cases tested : s.checkedOutput b with
  | error e => rintro w ⟨⟩
  | ok c => exact answersAllowed_ok (h c (State.checkedOutput_eq_ok tested))

end

/-- Every command computes only writes of the parts that the tables give it. -/
theorem writesOf_allowed (i : Instr) (s : State) : AnswersAllowed i s (writesOf i s) := by
  have only {b : Bytes} (fits : b.length ≤ s.sizes.obuf) (c : Bytes) (h : some b = some c) :
      c.length ≤ s.sizes.obuf := by
    rwa [← Option.some.inj h]
  cases i with
  | modinv rd ra => exact answersAllowed_stage fun _ => answersAllowed_ok {}
  | padd rd ra rb =>
    exact answersAllowed_stage fun _ => answersAllowed_stage fun _ => answersAllowed_stage fun _ => answersAllowed_ok {}
  | pdbl rd ra => exact answersAllowed_stage fun _ => answersAllowed_stage fun _ => answersAllowed_ok {}
  | smul rd ra rb => exact answersAllowed_stage fun _ => answersAllowed_stage fun _ => answersAllowed_ok {}
  | oncurve ra => exact answersAllowed_stage fun _ => answersAllowed_ok {}
  | keyvalid ra => exact answersAllowed_ok {}
  | pldg rd => exact answersAllowed_ok {}
  | haInit => exact answersAllowed_ok {}
  | haUpdate => exact answersAllowed_stage fun _ => answersAllowed_stage fun _ => answersAllowed_ok {}
  | haDigest => exact answersAllowed_stage fun _ => answersAllowed_output fun _ h => { fits := only h }
  | hbHash => exact answersAllowed_stage fun _ => answersAllowed_output fun _ h => { fits := only h }
  | b58enc => exact answersAllowed_stage fun _ => answersAllowed_output fun _ h => { fits := only h }
  | b58dec =>
    exact answersAllowed_stage fun _ => answersAllowed_stage fun _ =>
      answersAllowed_output fun _ h => { fits := only h }
  | b58cenc => exact answersAllowed_stage fun _ => answersAllowed_output fun _ h => { fits := only h }
  | b58cdec =>
    exact answersAllowed_stage fun _ => answersAllowed_stage fun _ =>
      answersAllowed_output fun _ h => { fits := only h }
  | derivepub rd ra c =>
    exact answersAllowed_stage fun _ => answersAllowed_stage fun _ => answersAllowed_stage fun _ =>
      answersAllowed_output fun _ h => { fits := only h }
  | deriveaddr => exact answersAllowed_stage fun _ => answersAllowed_output fun _ h => { fits := only h }
  | wifenc ra c t => exact answersAllowed_output fun _ h => { fits := only h }
  | wifdec rd =>
    exact answersAllowed_stage fun _ => answersAllowed_stage fun _ => answersAllowed_stage fun _ => answersAllowed_ok {}

/-- All that a command can do: the writes that the tables give it, or the abort. -/
theorem exec_cases {i : Instr} {s t : State} (h : exec i s = .next t) :
    (∃ w : Writes, writesOf i s = .ok w ∧ w.AllowedBy i s ∧ t = (w.apply s).completeOk) ∨
      ∃ e, writesOf i s = .error e ∧ t = s.abort e := by
  rw [exec_eq_endWith] at h
  obtain rfl : s.endWith (writesOf i s) = t := by simpa using h
  cases computed : writesOf i s with
  | ok w => exact .inl ⟨w, rfl, writesOf_allowed i s w computed, rfl⟩
  | error e => exact .inr ⟨e, rfl, rfl⟩

/-! What a command reads. -/

/-- `s'` shows the command `i` what `s` does: the registers, the input, the sizes, and the accumulator if `i` is one of
the three commands that use it. -/
structure SameSources (i : Instr) (s s' : State) : Prop where
  S : s'.S = s.S
  PT : s'.PT = s.PT
  sizes : s'.sizes = s.sizes
  input : s'.checkedInput = s.checkedInput
  ha : usesAccumulator i = true → s'.ha = s.ha

section

variable {i : Instr} {s s' : State}

theorem SameSources.scalar (h : SameSources i s s') (k : RegIndex) : s'.scalar k = s.scalar k := by
  rw [State.scalar, h.S, State.scalar]

theorem SameSources.getpt (h : SameSources i s s') (k : RegIndex) : s'.getpt k = s.getpt k := by
  rw [State.getpt, State.pointRegister, h.PT, State.getpt, State.pointRegister]

theorem SameSources.checkedOutput (h : SameSources i s s') (b : Bytes) : s'.checkedOutput b = s.checkedOutput b := by
  rw [State.checkedOutput, h.sizes, State.checkedOutput]

theorem SameSources.activeAccumulator (h : SameSources i s s') (uses : usesAccumulator i = true) :
    s'.activeAccumulator = s.activeAccumulator := by
  rw [State.activeAccumulator, h.ha uses, State.activeAccumulator]

/-- A command computes the same writes, or raises the same error, from the same sources. -/
theorem writesOf_eq_of_sameSources (h : SameSources i s s') : writesOf i s' = writesOf i s := by
  cases i with
  | haUpdate => simp only [writesOf, h.activeAccumulator rfl, h.input]
  | haDigest => simp only [writesOf, h.activeAccumulator rfl, h.checkedOutput]
  | _ => simp only [writesOf, h.scalar, h.getpt, h.input, h.checkedOutput]

/-- A command ends from the same sources as before, in the state it began in. -/
theorem exec_of_sameSources (h : SameSources i s s') : exec i s' = .next (s'.endWith (writesOf i s)) := by
  rw [exec_eq_endWith, writesOf_eq_of_sameSources h]

end

end Sys2Proof.Machine
end

section
/-! Frames of all commands: what a command may write, from the table of its writes. -/

namespace Sys2Proof.Machine

/-- Settles O21: `Writes` has no part for any of these fields. -/
theorem commandsNeverWriteInputs : Obligations.CommandsNeverWriteInputs := by
  intro i s t ends
  obtain ⟨w, -, -, rfl⟩ | ⟨e, -, rfl⟩ := exec_cases ends <;>
    exact ⟨rfl, fun _ => rfl, rfl, rfl, rfl, rfl, rfl, rfl, rfl⟩

/-- Settles O22: a register that changed is the one written, and the table names it. -/
theorem scalarRegistersFrame : Obligations.ScalarRegistersFrame := by
  intro i s t k ends changed
  obtain ⟨w, -, allowed, rfl⟩ | ⟨e, -, rfl⟩ := exec_cases ends
  · exact scalarTarget_eq_some (allowed.scalar.symm.trans (register_written changed))
  · exact absurd rfl changed

/-- Settles O23: a register that changed is the one written, and the table names it. -/
theorem pointRegistersFrame : Obligations.PointRegistersFrame := by
  intro i s t k ends changed
  obtain ⟨w, -, allowed, rfl⟩ | ⟨e, -, rfl⟩ := exec_cases ends
  · exact pointTarget_eq_some (allowed.point.symm.trans (register_written changed))
  · exact absurd rfl changed

/-- A value that a write may replace, and that changed, was written. -/
theorem isSome_of_getD_ne {α : Type} {write : Option α} {old : α} (changed : write.getD old ≠ old) :
    write.isSome = true := by
  cases write with
  | none => exact absurd rfl changed
  | some new => rfl

/-- Settles O24: a flag that changed was written, and the tables name its writers. -/
theorem flagsFrame : Obligations.FlagsFrame := by
  intro i s t ends
  obtain ⟨w, -, allowed, rfl⟩ | ⟨e, -, rfl⟩ := exec_cases ends
  · refine ⟨fun changed => ⟨rfl, ?_⟩, fun changed => ⟨rfl, ?_⟩⟩
    · exact (writesFlagT_iff i).mp (allowed.flagT.symm.trans (isSome_of_getD_ne changed))
    · have written : w.flagsWif.isSome = true := by
        rcases changed with changed | changed <;> simpa using isSome_of_getD_ne changed
      exact (writesFlagsWif_iff i).mp (allowed.flagsWif.symm.trans written)
  · exact ⟨fun changed => absurd rfl changed, fun changed => absurd rfl (changed.resolve_left fun h => h rfl)⟩

/-- Settles O25: an accumulator that changed was written. -/
theorem accumulatorFrame : Obligations.AccumulatorFrame := by
  intro i s t ends changed
  obtain ⟨w, -, allowed, rfl⟩ | ⟨e, -, rfl⟩ := exec_cases ends
  · exact ⟨rfl, allowed.accumulator.symm.trans (isSome_of_getD_ne changed)⟩
  · exact absurd rfl changed

section

variable {i : Instr} {s : State} {w : Writes}

/-- A command without buffer output has no output among its writes. -/
theorem Writes.AllowedBy.output_eq_none (allowed : w.AllowedBy i s) (silent : producesOutput i = false) :
    w.output = none := by
  rw [← Option.not_isSome_iff_eq_none, allowed.output, silent]
  exact Bool.false_ne_true

theorem Writes.AllowedBy.exists_output (allowed : w.AllowedBy i s) (produces : producesOutput i = true) :
    ∃ b, w.output = some b := by
  rw [← Option.isSome_iff_exists, allowed.output, produces]

/-- A command with output `b` leaves in `OBUF` what `out(b)` does (R13). -/
theorem Writes.bufferByte_of_output {b : Bytes} (h : w.output = some b) (k : Nat) :
    (w.apply s).bufferByte .obuf k = (s.putOutput b).bufferByte .obuf k := by
  simp [State.bufferByte, h]

end

/-- A string that fits a buffer of legal size has a length that fits the nine bits of `OLEN` (R7, R29). -/
theorem olen_toNat_of_fits {s : State} (legal : s.sizes.Legal) {b : Bytes} (fits : b.length ≤ s.sizes.obuf) :
    (BitVec.ofNat 9 b.length).toNat = b.length := by
  obtain ⟨-, -, -, obuf⟩ := legal
  rw [BitVec.toNat_ofNat, Nat.mod_eq_of_lt (by omega)]

/-- Settles O26: a command without output writes no output; `out` leaves the bytes after the string alone. -/
theorem outputBufferFrame : Obligations.OutputBufferFrame := by
  intro i s t legal ends
  obtain ⟨w, -, allowed, rfl⟩ | ⟨e, -, rfl⟩ := exec_cases ends
  · constructor
    · intro silent
      have no := allowed.output_eq_none (silent.resolve_right Bool.noConfusion)
      exact ⟨by simp [no], fun k => by simp [State.bufferByte, no]⟩
    · intro produces _ k above
      obtain ⟨b, output⟩ := allowed.exists_output produces
      have length : (w.apply s).olen.toNat = b.length := by
        rw [Writes.apply_olen, output, Option.elim_some, olen_toNat_of_fits legal (allowed.fits b output)]
      exact (Writes.bufferByte_of_output output k).trans (s.bufferByte_putOutput b (length ▸ above))
  · exact ⟨fun _ => ⟨rfl, fun _ => rfl⟩, fun _ done => Bool.noConfusion done⟩

end Sys2Proof.Machine
end

section
/-! Noninterference: what a command does not read, from the sources of its writes. -/

namespace Sys2Proof.Machine

/-- The end of a command holds the input buffer it began with, and neither the writes nor the abort look at it. -/
theorem State.endWith_ibuf (s : State) (m : Memory) (r : Except CommandError Writes) :
    State.endWith { s with ibuf := m } r = { s.endWith r with ibuf := m } := by
  cases r <;> rfl

/-- The input is the same when the buffers agree below `ILEN` (R41). -/
theorem checkedInput_eq_of_agree {s : State} {m : Memory}
    (agree : ∀ k, k < s.ilen.toNat → State.bufferByte { s with ibuf := m } .ibuf k = s.bufferByte .ibuf k) :
    State.checkedInput { s with ibuf := m } = s.checkedInput := by
  have same : State.input { s with ibuf := m } = s.input :=
    List.map_congr_left fun k hk => agree k (List.mem_range.mp hk)
  simp only [State.checkedInput, same]

/-- Settles O27: the input is the only source in `IBUF`, and it ends below `ILEN`. -/
theorem bytesBeyondIlenAreNeverRead : Obligations.BytesBeyondIlenAreNeverRead := by
  intro i s t m agree ends
  have same : SameSources i s { s with ibuf := m } := ⟨rfl, rfl, rfl, checkedInput_eq_of_agree agree, fun _ => rfl⟩
  rw [exec_eq_endWith] at ends
  obtain rfl : s.endWith (writesOf i s) = t := by simpa using ends
  rw [exec_of_sameSources same, State.endWith_ibuf]

/-- Settles O28: the accumulator is no source of these commands and not among their writes. -/
theorem accumulatorIsIgnoredByOthers : Obligations.AccumulatorIsIgnoredByOthers := by
  intro i s t a others ends
  have same : SameSources i s { s with ha := a } :=
    ⟨rfl, rfl, rfl, rfl, fun uses => Bool.noConfusion (others.symm.trans uses)⟩
  rw [exec_of_sameSources same]
  obtain ⟨w, computed, allowed, rfl⟩ | ⟨e, raised, rfl⟩ := exec_cases ends
  · have no : w.accumulator = none := by
      rw [← Option.not_isSome_iff_eq_none, allowed.accumulator, others]
      exact Bool.false_ne_true
    rw [computed, State.endWith, Writes.apply, no]
    rfl
  · rw [raised]
    rfl

/-- What `out(b)` leaves at the indices of the string. -/
theorem State.bufferByte_putOutput_of_lt (s : State) {b : Bytes} {k : Nat} (h : k < b.length) :
    (s.putOutput b).bufferByte .obuf k = b[k] := by
  have := Memory.lookup_writeBytes_inside s.obuf 0 b k h
  simp only [Nat.zero_add] at this
  simp [State.bufferByte, this]

/-- The bytes up to `OLEN` after a command with output are those of the output, whatever the buffer held. -/
theorem Writes.memRead_of_output {w : Writes} {b : Bytes} (h : w.output = some b) (s s' : State) :
    (w.apply s').memRead .obuf (w.apply s').olen.toNat = (w.apply s).memRead .obuf (w.apply s).olen.toNat := by
  rw [Writes.apply_olen, Writes.apply_olen, h]
  refine List.map_congr_left fun k hk => ?_
  have inside : k < b.length := by
    have := Nat.mod_le b.length (2 ^ 9)
    rw [List.mem_range, Option.elim_some, BitVec.toNat_ofNat] at hk
    omega
  rw [Writes.bufferByte_of_output h, Writes.bufferByte_of_output h, State.bufferByte_putOutput_of_lt _ inside,
    State.bufferByte_putOutput_of_lt _ inside]

/-- The bit that an error sets is the one its code in `ERRCODE` names (R27, R231). -/
theorem CommandError.stickyBit_eq (e : CommandError) :
    e.stickyBit = BitVec.ofNat 32 (2 ^ (BitVec.ofNat 8 e.code).toNat) := by
  cases e <;> rfl

/-- Settles O29: the reports are no source, so both runs do the same writes or raise the same error. -/
theorem commandsNeverReadReports : Obligations.CommandsNeverReadReports := by
  intro i s t t' m l f e ends ends'
  have same : SameSources i s { s with obuf := m, olen := l, flags := f, esticky := e } :=
    ⟨rfl, rfl, rfl, rfl, fun _ => rfl⟩
  rw [exec_of_sameSources same] at ends'
  obtain ⟨w, computed, allowed, rfl⟩ | ⟨raised, computed, rfl⟩ := exec_cases ends
  · rw [computed] at ends'
    obtain rfl := Host.Outcome.next.inj ends'
    refine ⟨rfl, rfl, rfl, rfl, rfl, rfl, rfl, ?_, ?_, ?_, fun _ => ⟨rfl, rfl⟩, fun failed => Bool.noConfusion failed⟩
    · intro _ produces
      obtain ⟨b, output⟩ := allowed.exists_output produces
      exact ⟨by simp [State.endWith, output], Writes.memRead_of_output output _ _⟩
    · rintro - ⟨ra, writes⟩
      have written : w.flagT.isSome = true :=
        allowed.flagT.trans ((writesFlagT_iff i).mpr (writes.imp (⟨ra, ·⟩) (⟨ra, ·⟩)))
      obtain ⟨v, hv⟩ := Option.isSome_iff_exists.mp written
      simp [State.endWith, hv]
    · rintro - writes
      obtain ⟨v, hv⟩ := Option.isSome_iff_exists.mp (allowed.flagsWif.trans ((writesFlagsWif_iff i).mpr writes))
      simp [State.endWith, hv]
  · rw [computed] at ends'
    obtain rfl := Host.Outcome.next.inj ends'
    exact ⟨rfl, rfl, rfl, rfl, rfl, rfl, rfl, fun done => Bool.noConfusion done, fun done => Bool.noConfusion done,
      fun done => Bool.noConfusion done, fun done => Bool.noConfusion done,
      fun _ => ⟨congrArg (s.esticky ||| ·) raised.stickyBit_eq, congrArg (e ||| ·) raised.stickyBit_eq⟩⟩

end Sys2Proof.Machine
end

section
/-! The HOST's window word by word: what a read returns and a write does at each address of the map (R61, R64). -/

namespace Sys2Proof.Machine

/-! Words and their parts. -/

/-- Word `j` of a 256-bit quantity that is given as an integer (R61). -/
theorem scalarWord_ofNat {n : Nat} (h : n < 2 ^ 256) (j : Fin 8) :
    scalarWord (BitVec.ofNat 256 n) j = BitVec.ofNat 32 (n / 2 ^ (32 * j.val)) := by
  apply BitVec.eq_of_toNat_eq
  rw [scalarWord, BitVec.extractLsb'_toNat, BitVec.toNat_ofNat, BitVec.toNat_ofNat, Nat.mod_eq_of_lt h,
    Nat.shiftRight_eq_div_pow]

/-- Byte lane `i` of a word of four bytes, the lowest one first, is byte `i` (R11, R64). -/
theorem lane_ofNat_intLe (byte : Nat → Byte) (lane : Fin 4) :
    (BitVec.ofNat 32 (intLe ((List.range 4).map byte))).extractLsb' (8 * lane.val) 8 = byte lane.val := by
  have bound (k : Nat) : (byte k).toNat < 256 := (byte k).isLt
  have value : intLe ((List.range 4).map byte) =
      (byte 0).toNat + 256 * ((byte 1).toNat + 256 * ((byte 2).toNat + 256 * (byte 3).toNat)) := rfl
  have h₀ := bound 0
  have h₁ := bound 1
  have h₂ := bound 2
  have h₃ := bound 3
  apply BitVec.eq_of_toNat_eq
  rw [BitVec.extractLsb'_toNat, BitVec.toNat_ofNat, value, Nat.shiftRight_eq_div_pow]
  match lane with
  | 0 => show _ / 1 % 256 = (byte 0).toNat; omega
  | 1 => show _ / 256 % 256 = (byte 1).toNat; omega
  | 2 => show _ / 65536 % 256 = (byte 2).toNat; omega
  | 3 => show _ / 16777216 % 256 = (byte 3).toNat; omega

/-- Two words with the same four byte lanes are the same. -/
theorem eq_of_lanes {v w : Word}
    (h : ∀ lane : Fin 4, v.extractLsb' (8 * lane.val) 8 = w.extractLsb' (8 * lane.val) 8) : v = w := by
  apply BitVec.eq_of_getLsbD_eq
  intro i hi
  have lane := congrArg (·.getLsbD (i % 8)) (h ⟨i / 8, by omega⟩)
  simpa [BitVec.getLsbD_extractLsb', Nat.mod_lt, Nat.div_add_mod] using lane

section

variable (s : State)

/-- Byte lane `i` of a word of a buffer window is the byte at that index as the window shows it (R64). -/
theorem State.bufferWord_lane (b : Config.Buffer) (m : Nat) (lane : Fin 4) :
    (s.bufferWord b m).extractLsb' (8 * lane.val) 8 = s.windowByte b (4 * m + lane.val) :=
  lane_ofNat_intLe (fun i => s.windowByte b (4 * m + i)) lane

/-! Reads (R61). -/

theorem State.windowRead_scalarAddress (i : Fin 4) (j : Fin 8) :
    s.windowRead (scalarAddress i j) = scalarWord (s.scalar i) j := by
  rw [State.windowRead, locate_scalarAddress]

theorem State.windowRead_pointXAddress (i : Fin 4) (j : Fin 8) :
    s.windowRead (pointXAddress i j) = scalarWord (s.pointRegister i).x j := by
  rw [State.windowRead, locate_pointXAddress]

theorem State.windowRead_pointYAddress (i : Fin 4) (j : Fin 8) :
    s.windowRead (pointYAddress i j) = scalarWord (s.pointRegister i).y j := by
  rw [State.windowRead, locate_pointYAddress]

theorem State.windowRead_pointTagAddress (i : Fin 4) :
    s.windowRead (pointTagAddress i) = BitVec.ofNat 32 (s.pointRegister i).inf.toNat := by
  rw [State.windowRead, locate_pointTagAddress]

theorem State.windowRead_constantAddress (k : Fin 6) (j : Fin 8) :
    s.windowRead (constantAddress k j) = scalarWord (curveConstant k) j := by
  rw [State.windowRead, locate_constantAddress]

/-- A word of a constant, from the constant as an integer (R31). -/
theorem State.windowRead_constant {k : Fin 6} {n : Nat} (constant : curveConstant k = BitVec.ofNat 256 n)
    (h : n < 2 ^ 256) (j : Fin 8) :
    s.windowRead (constantAddress k j) = BitVec.ofNat 32 (n / 2 ^ (32 * j.val)) := by
  rw [State.windowRead_constantAddress, constant, scalarWord_ofNat h]

theorem State.windowRead_ibufAddress (m : Fin 256) : s.windowRead (ibufAddress m) = s.bufferWord .ibuf m.val := by
  rw [State.windowRead, locate_ibufAddress]

theorem State.windowRead_obufAddress (m : Fin 256) : s.windowRead (obufAddress m) = s.bufferWord .obuf m.val := by
  rw [State.windowRead, locate_obufAddress]

end

/-- Settles O11: the map's entries one after the other. -/
theorem windowReadsFollowTheMap : Obligations.WindowReadsFollowTheMap := by
  intro s
  refine ⟨rfl, rfl, rfl, rfl, rfl, rfl, rfl, fun i j => ?_, fun j => ?_, fun m lane => ?_⟩
  · exact ⟨s.windowRead_scalarAddress i j, s.windowRead_pointXAddress i j, s.windowRead_pointYAddress i j,
      s.windowRead_pointTagAddress i⟩
  · exact ⟨s.windowRead_constant (k := 0) rfl (by decide) j, s.windowRead_constant (k := 1) rfl (by decide) j,
      s.windowRead_constant (k := 2) rfl (by decide) j, s.windowRead_constant (k := 3) rfl (by decide) j,
      s.windowRead_constant (k := 4) rfl (by decide) j, s.windowRead_constant (k := 5) rfl (by decide) j⟩
  · constructor
    · exact (congrArg _ (s.windowRead_ibufAddress m)).trans (s.bufferWord_lane .ibuf m lane)
    · exact (congrArg _ (s.windowRead_obufAddress m)).trans (s.bufferWord_lane .obuf m lane)

/-! Writes with `BUSY = 0` (R61, R66, R67). -/

section

variable {s : State} (idle : s.busy = false) (w : Word)

include idle

theorem State.hostWrite_of_idle (a : WindowAddress) : s.hostWrite a w = s.windowWrite a w := by
  rw [State.hostWrite, idle, if_neg Bool.false_ne_true]

theorem State.hostWrite_scalarAddress (i : Fin 4) (j : Fin 8) :
    s.hostWrite (scalarAddress i j) w = s.setScalar i (setScalarWord (s.scalar i) j w) := by
  rw [State.hostWrite_of_idle idle, State.windowWrite, locate_scalarAddress]

theorem State.hostWrite_pointXAddress (i : Fin 4) (j : Fin 8) :
    s.hostWrite (pointXAddress i j) w =
      s.setPointRegister i { s.pointRegister i with x := setScalarWord (s.pointRegister i).x j w } := by
  rw [State.hostWrite_of_idle idle, State.windowWrite, locate_pointXAddress]

theorem State.hostWrite_pointYAddress (i : Fin 4) (j : Fin 8) :
    s.hostWrite (pointYAddress i j) w =
      s.setPointRegister i { s.pointRegister i with y := setScalarWord (s.pointRegister i).y j w } := by
  rw [State.hostWrite_of_idle idle, State.windowWrite, locate_pointYAddress]

theorem State.hostWrite_pointTagAddress (i : Fin 4) :
    s.hostWrite (pointTagAddress i) w = s.setPointRegister i { s.pointRegister i with inf := w.getLsbD 0 } := by
  rw [State.hostWrite_of_idle idle, State.windowWrite, locate_pointTagAddress]

theorem State.hostWrite_ibufAddress (m : Fin 256) :
    s.hostWrite (ibufAddress m) w = { s with ibuf := writeLanes s.sizes.ibuf m.val w 4 s.ibuf } := by
  rw [State.hostWrite_of_idle idle, State.windowWrite, locate_ibufAddress]

end

@[simp] theorem State.scalar_setScalar_self (s : State) (i : RegIndex) (v : Scalar) : (s.setScalar i v).scalar i = v :=
  Vector.getElem_set_self i.isLt

@[simp] theorem State.pointRegister_setPointRegister_self (s : State) (i : RegIndex) (v : PointRegister) :
    (s.setPointRegister i v).pointRegister i = v :=
  Vector.getElem_set_self i.isLt

/-! Reading back. -/

/-- The word of one bit is the word cut to bit 0 (R35). -/
theorem ofNat_toNat_getLsbD_zero (w : Word) : BitVec.ofNat 32 (w.getLsbD 0).toNat = w &&& 1 := by
  rw [show (1 : Word) = 1#32 from rfl, BitVec.and_one_eq_setWidth_ofBool_getLsbD]
  cases w.getLsbD 0 <;> rfl

/-- Bits 8 to 0 as a word are the word cut to these bits (R28). -/
theorem zeroExtend_extract_nine (w : Word) : (w.extractLsb' 0 9).zeroExtend 32 = w &&& 0x1FF := by
  apply BitVec.eq_of_toNat_eq
  rw [BitVec.toNat_setWidth, BitVec.extractLsb'_toNat, BitVec.toNat_and, Nat.shiftRight_zero,
    show (0x1FF : Word).toNat = 2 ^ 9 - 1 from rfl, Nat.and_two_pow_sub_one_eq_mod]
  omega

/-- An `IBUF` word reads back each byte lane below `IBUFSZ`, and 0 in the others (R64). -/
theorem State.ibufWord_reads_back {s : State} (idle : s.busy = false) (w : Word) (m : Fin 256) (lane : Fin 4) :
    ((s.hostWrite (ibufAddress m) w).windowRead (ibufAddress m)).extractLsb' (8 * lane.val) 8 =
      if 4 * m.val + lane.val < s.sizes.ibuf then w.extractLsb' (8 * lane.val) 8 else 0 := by
  rw [State.hostWrite_ibufAddress idle, State.windowRead_ibufAddress, State.bufferWord_lane]
  simp only [State.windowByte, State.bufferSize, State.bufferByte, lookup_writeLanes]
  split_ifs with inside written
  · simp
  · omega
  · rfl

/-- Settles O13: each writable word in turn. -/
theorem writableWordsReadBack : Obligations.WritableWordsReadBack := by
  intro s w idle
  refine ⟨fun i j => ⟨?scalar, ?x, ?y, ?tag⟩, ?ilen, ?esticky, fun m inside hm => ?word, s.ibufWord_reads_back idle w⟩
  case scalar =>
    show (s.hostWrite (scalarAddress i j) w).windowRead (scalarAddress i j) = w
    rw [State.hostWrite_scalarAddress idle, State.windowRead_scalarAddress, State.scalar_setScalar_self,
      scalarWord_setScalarWord_self]
  case x =>
    show (s.hostWrite (pointXAddress i j) w).windowRead (pointXAddress i j) = w
    rw [State.hostWrite_pointXAddress idle, State.windowRead_pointXAddress, State.pointRegister_setPointRegister_self,
      scalarWord_setScalarWord_self]
  case y =>
    show (s.hostWrite (pointYAddress i j) w).windowRead (pointYAddress i j) = w
    rw [State.hostWrite_pointYAddress idle, State.windowRead_pointYAddress, State.pointRegister_setPointRegister_self,
      scalarWord_setScalarWord_self]
  case tag =>
    show (s.hostWrite (pointTagAddress i) w).windowRead (pointTagAddress i) = w &&& 1
    rw [State.hostWrite_pointTagAddress idle, State.windowRead_pointTagAddress,
      State.pointRegister_setPointRegister_self, ofNat_toNat_getLsbD_zero]
  case ilen =>
    rw [State.hostWrite_of_idle idle]
    exact zeroExtend_extract_nine w
  case esticky =>
    rw [State.hostWrite_of_idle idle]
    show s.esticky &&& ~~~w &&& estickyBits = s.esticky &&& estickyBits &&& ~~~w
    rw [BitVec.and_assoc, BitVec.and_comm (~~~w), BitVec.and_assoc]
  case word =>
    refine eq_of_lanes fun lane => ?_
    have reads := s.ibufWord_reads_back idle w ⟨m, hm⟩ lane
    rwa [if_pos (show 4 * m + lane.val < s.sizes.ibuf by omega)] at reads

end Sys2Proof.Machine
end

section
/-! The reset state and the reset event (R45, R260). -/

namespace Sys2Proof.Machine

/-- The reset registers: all scalars 0, all points the identity (R45). -/
theorem reset_registers (i : Fin 4) :
    (Vector.replicate 4 (0 : Scalar))[i] = 0 ∧ (Vector.replicate 4 PointRegister.infinity)[i] = ⟨true, 0, 0⟩ :=
  ⟨Vector.getElem_replicate i.isLt, Vector.getElem_replicate i.isLt⟩

/-- Settles O16: no buffer byte has been written, so each is free. -/
theorem resetStateHoldsResetValues : Obligations.ResetStateHoldsResetValues := by
  refine ⟨reset_registers, rfl, rfl, rfl, rfl, rfl, rfl, rfl, fun b k => ?_⟩
  cases b <;> rfl

/-- Settles O18: nothing is reported, counted or pending, and the buffers list nothing. -/
theorem resetIsSound : Obligations.ResetIsSound where
  sizes := (by decide : State.reset.sizes.Legal)
  oneStatus := Nat.zero_le 1
  noErrorCode := fun _ => rfl
  errorCode := fun err => Bool.noConfusion err
  sticky := (by decide : State.reset.esticky &&& ~~~estickyBits = 0)
  outputLength := Nat.zero_le _
  ibufForm := State.reset_memories_wf.1
  ibufBound := fun _ listed => absurd listed List.not_mem_nil
  obufForm := State.reset_memories_wf.2
  obufBound := fun _ listed => absurd listed List.not_mem_nil
  pending := Nat.zero_le 63
  counted := fun active => HashStage.noConfusion active

/-- The step takes the agenda's head (R74). -/
theorem step_of_agenda {s : State} {e : Event} {rest : List Event} (h : s.agenda = e :: rest) :
    step s = runEvent e { s with agenda := rest } := by
  rw [step, State.nextEvent, h]

theorem coreTurn_of_idle {s : State} (idle : s.busy = false) : coreTurn s = .next s := by
  rw [coreTurn, idle, if_neg Bool.false_ne_true]

/-- With `BUSY = 0` the CORE's turn changes only the agenda (R72, log 3). -/
theorem step_of_idle_turn {s : State} {rest : List Event} (turn : CoreTurn s rest) (idle : s.busy = false) :
    step s = .next { s with agenda := rest } := by
  obtain ⟨empty, rfl⟩ | head := turn
  · have same : { s with agenda := [] } = s := by rw [← empty]
    rw [step, State.nextEvent, empty, same]
    exact coreTurn_of_idle idle
  · rw [step_of_agenda head]
    exact coreTurn_of_idle idle

/-- Settles O17: the event gives the reset state, which is idle. -/
theorem resetEventGivesResetState : Obligations.ResetEventGivesResetState := by
  intro s rest next
  refine ⟨_, step_of_agenda next, reset_registers, rfl, rfl, rfl, rfl, rfl, rfl, rfl, rfl, rfl, rfl, fun b k => ?_, rfl,
    fun rest' turn => step_of_idle_turn turn rfl⟩
  cases b <;> rfl

end Sys2Proof.Machine
end

section
/-! Point operands: how a register holds a point value, and the commands that refuse one out of range (R35, R120). -/

namespace Sys2Proof.Machine

theorem PointRegister.value_of_inf {r : PointRegister} (h : r.inf = true) : r.value = .ok .inf := by
  rw [PointRegister.value, if_pos h]

theorem PointRegister.value_of_range {r : PointRegister} (affine : r.inf = false) (hx : r.x.toNat < fieldPrime)
    (hy : r.y.toNat < fieldPrime) : r.value = .ok (.aff r.x.toNat r.y.toNat) := by
  rw [PointRegister.value, if_neg (by simp [affine]), if_neg (by omega)]

theorem PointRegister.value_of_outOfRange {r : PointRegister} (affine : r.inf = false)
    (range : fieldPrime ≤ r.x.toNat ∨ fieldPrime ≤ r.y.toNat) : r.value = .error .operandRange := by
  rw [PointRegister.value, if_neg (by simp [affine]), if_pos range]

/-- A field element fits its 256-bit field (R12, R35). -/
theorem toNat_ofNat_of_lt_fieldPrime {x : Nat} (h : x < fieldPrime) : (BitVec.ofNat 256 x).toNat = x := by
  have bound : fieldPrime < 2 ^ 256 := by decide
  rw [BitVec.toNat_ofNat, Nat.mod_eq_of_lt (h.trans bound)]

/-- Settles O35: the three cases of `getpt`, and that a point value written reads back. -/
theorem pointRegisterHoldsPoint : Obligations.PointRegisterHoldsPoint := by
  intro s i
  refine ⟨PointRegister.value_of_inf, PointRegister.value_of_range, PointRegister.value_of_outOfRange, rfl,
    fun x y hx hy => ?_⟩
  have hx' := toNat_ofNat_of_lt_fieldPrime hx
  have hy' := toNat_ofNat_of_lt_fieldPrime hy
  have value := PointRegister.value_of_range (r := Point.register (.aff x y)) rfl (hx'.trans_lt hx) (hy'.trans_lt hy)
  rwa [show (Point.register (.aff x y)).x.toNat = x from hx', show (Point.register (.aff x y)).y.toNat = y from hy']
    at value

/-- The abort is the end `Fail` with the error's code (R236). -/
theorem State.failedWith_abort (s : State) (e : CommandError) : FailedWith s (s.abort e) e.code := rfl

/-- `getpt` answers, or raises `OperandRange` (R120). -/
theorem State.getpt_cases (s : State) (i : RegIndex) :
    (∃ P, s.getpt i = .ok P) ∨ s.getpt i = .error .operandRange := by
  cases read : s.getpt i with
  | ok P => exact .inl ⟨P, rfl⟩
  | error e => rw [(PointRegister.value_eq_error read).1]; exact .inr rfl

/-- Settles O34: reading the register raises before any other stage; where it is the second one of PADD, reading the
first answers or raises the same error. -/
theorem outOfRangePointFails : Obligations.OutOfRangePointFails := by
  intro rd ra rb s affine range
  have raises : s.getpt ra = .error .operandRange := PointRegister.value_of_outOfRange affine range
  have failed : FailedWith s (s.abort .operandRange) 8 := s.failedWith_abort .operandRange
  refine ⟨⟨_, State.finish_stage_error s raises _, failed⟩, ⟨_, ?_, failed⟩,
    ⟨_, State.finish_stage_error s raises _, failed⟩, ⟨_, State.finish_stage_error s raises _, failed⟩,
    ⟨_, State.finish_stage_error s raises _, failed⟩⟩
  obtain ⟨P, answers⟩ | first := s.getpt_cases rb
  · exact (State.finish_stage_ok s answers _).trans (State.finish_stage_error s raises _)
  · exact State.finish_stage_error s first _

/-- Settles O43: PLDG has no stage that could raise, and the generator satisfies the equation. -/
theorem pldgLoadsTheGenerator : Obligations.PldgLoadsTheGenerator := by
  refine ⟨fun rd s => ⟨?_, rfl⟩, by decide, by decide, by decide⟩
  simp [encode, commandWord, opcodeOf, operandsOf]

end Sys2Proof.Machine
end

section
/-! One word of the window written, another one read (R61, R67). First what the updates of a HOST write leave of each
register and buffer, then what they leave of each word of the window. -/

namespace Sys2Proof.Machine

variable (s : State) (w : Word)

/-! The registers and the input buffer after one word is written. -/

theorem State.scalar_setScalar_ne {i k : RegIndex} (h : k ≠ i) (v : Scalar) :
    (s.setScalar i v).scalar k = s.scalar k :=
  Vector.getElem_set_ne i.isLt k.isLt fun same => h (Fin.ext same.symm)

theorem State.pointRegister_setPointRegister_ne {i k : RegIndex} (h : k ≠ i) (v : PointRegister) :
    (s.setPointRegister i v).pointRegister k = s.pointRegister k :=
  Vector.getElem_set_ne i.isLt k.isLt fun same => h (Fin.ext same.symm)

/-- A part of a point register is unchanged in all of them when the new fields of register `i` share it with the old
ones. -/
theorem State.pointRegister_part_setPointRegister {α : Type} (part : PointRegister → α) {i k : RegIndex}
    {v : PointRegister} (same : k = i → part v = part (s.pointRegister k)) :
    part ((s.setPointRegister i v).pointRegister k) = part (s.pointRegister k) := by
  by_cases written : k = i
  · rw [← same written, written, State.pointRegister_setPointRegister_self]
  · rw [s.pointRegister_setPointRegister_ne written]

/-- A written `IBUF` word leaves the other words of the buffer alone (R64). -/
theorem State.bufferWord_writeLanes_ne {m k : Nat} (h : k ≠ m) :
    State.bufferWord { s with ibuf := writeLanes s.sizes.ibuf m w 4 s.ibuf } .ibuf k = s.bufferWord .ibuf k := by
  refine eq_of_lanes fun lane => ?_
  have outside :
      ¬(4 * m ≤ 4 * k + lane.val ∧ 4 * k + lane.val < 4 * m + 4 ∧ 4 * k + lane.val < s.sizes.ibuf) := by omega
  rw [State.bufferWord_lane, State.bufferWord_lane]
  simp only [State.windowByte, State.bufferSize, State.bufferByte, lookup_writeLanes, if_neg outside]
  rfl

/-! The words of the window after one is written: the location read decides whether the update can be seen. -/

section

variable {b : WindowAddress} {i : Fin 4} {j : Fin 8}

theorem State.windowRead_setScalar (other : locate b ≠ .scalarWord i j) :
    (s.setScalar i (setScalarWord (s.scalar i) j w)).windowRead b = s.windowRead b := by
  unfold State.windowRead
  cases read : locate b with
  | scalarWord k l =>
    by_cases register : k = i
    · subst register
      have word : l ≠ j := fun same => other (by rw [read, same])
      simp only [State.scalar_setScalar_self, scalarWord_setScalarWord_ne _ w word]
    · simp only [s.scalar_setScalar_ne register]
  | _ => rfl

/-- A write to a point register is not seen where the part that is shown is the same in the new fields. -/
theorem State.windowRead_setPointRegister {v : PointRegister}
    (x : ∀ l, locate b = .pointX i l → scalarWord v.x l = scalarWord (s.pointRegister i).x l)
    (y : ∀ l, locate b = .pointY i l → scalarWord v.y l = scalarWord (s.pointRegister i).y l)
    (tag : locate b = .pointTag i → v.inf = (s.pointRegister i).inf) :
    (s.setPointRegister i v).windowRead b = s.windowRead b := by
  unfold State.windowRead
  cases read : locate b with
  | pointX k l =>
    exact s.pointRegister_part_setPointRegister (scalarWord ·.x l) (by rintro rfl; exact x l read)
  | pointY k l =>
    exact s.pointRegister_part_setPointRegister (scalarWord ·.y l) (by rintro rfl; exact y l read)
  | pointTag k =>
    exact s.pointRegister_part_setPointRegister (fun r => BitVec.ofNat 32 r.inf.toNat)
      (by rintro rfl; exact congrArg _ (congrArg _ (tag read)))
  | _ => rfl

theorem State.windowRead_setPointX (other : locate b ≠ .pointX i j) :
    (s.setPointRegister i { s.pointRegister i with x := setScalarWord (s.pointRegister i).x j w }).windowRead b =
      s.windowRead b :=
  s.windowRead_setPointRegister
    (fun _ read => scalarWord_setScalarWord_ne _ w fun same => other (by rw [read, same]))
    (fun _ _ => rfl) (fun _ => rfl)

theorem State.windowRead_setPointY (other : locate b ≠ .pointY i j) :
    (s.setPointRegister i { s.pointRegister i with y := setScalarWord (s.pointRegister i).y j w }).windowRead b =
      s.windowRead b :=
  s.windowRead_setPointRegister (fun _ _ => rfl)
    (fun _ read => scalarWord_setScalarWord_ne _ w fun same => other (by rw [read, same])) (fun _ => rfl)

theorem State.windowRead_setPointTag (other : locate b ≠ .pointTag i) (inf : Bool) :
    (s.setPointRegister i { s.pointRegister i with inf := inf }).windowRead b = s.windowRead b :=
  s.windowRead_setPointRegister (fun _ _ => rfl) (fun _ _ => rfl) fun read => absurd read other

theorem State.windowRead_setEsticky (other : locate b ≠ .esticky) (v : Word) :
    State.windowRead { s with esticky := v } b = s.windowRead b := by
  unfold State.windowRead
  cases read : locate b with
  | esticky => exact absurd read other
  | _ => rfl

theorem State.windowRead_setIlen (other : locate b ≠ .ilen) (v : BitVec 9) :
    State.windowRead { s with ilen := v } b = s.windowRead b := by
  unfold State.windowRead
  cases read : locate b with
  | ilen => exact absurd read other
  | _ => rfl

theorem State.windowRead_writeLanes {m : Fin 256} (other : locate b ≠ .ibufWord m) :
    State.windowRead { s with ibuf := writeLanes s.sizes.ibuf m.val w 4 s.ibuf } b = s.windowRead b := by
  unfold State.windowRead
  cases read : locate b with
  | ibufWord k => exact s.bufferWord_writeLanes_ne w fun same => other (by rw [read, Fin.ext same])
  | _ => rfl

end

/-- A write to a location other than `CMD` changes what is read at no other location. -/
theorem State.windowRead_windowWrite_of_ne {a b : WindowAddress} (notCmd : locate a ≠ .cmd)
    (other : locate a ≠ .unmapped → locate b ≠ locate a) : (s.windowWrite a w).windowRead b = s.windowRead b := by
  unfold State.windowWrite
  cases written : locate a with
  | cmd => exact absurd written notCmd
  | esticky => exact s.windowRead_setEsticky (by simpa [written] using other) _
  | ilen => exact s.windowRead_setIlen (by simpa [written] using other) _
  | scalarWord i j => exact s.windowRead_setScalar w (by simpa [written] using other)
  | pointX i j => exact s.windowRead_setPointX w (by simpa [written] using other)
  | pointY i j => exact s.windowRead_setPointY w (by simpa [written] using other)
  | pointTag i => exact s.windowRead_setPointTag (by simpa [written] using other) _
  | ibufWord m => exact s.windowRead_writeLanes w (by simpa [written] using other)
  | status | errcode | olen | flags | constantWord | obufWord | unmapped => rfl

/-- The word at a mapped location has one address, so that another address names another location. -/
theorem locate_ne_of_ne {a b : WindowAddress} (ne : b ≠ a) (mapped : locate a ≠ .unmapped) : locate b ≠ locate a :=
  fun same => ne (locate_injective same.symm mapped).symm

/-- Settles O14: the map is injective, so another word is another location; while `BUSY = 1` nothing is written. -/
theorem writeTouchesOnlyItsWord : Obligations.WriteTouchesOnlyItsWord := by
  intro s a b w _ _ notCmd ne
  unfold State.hostWrite
  split_ifs with busy
  · rfl
  · have notCmd' : locate a ≠ .cmd := locate_ne_of_ne (a := 0x000) notCmd (by decide)
    exact s.windowRead_windowWrite_of_ne w notCmd' (locate_ne_of_ne ne)

end Sys2Proof.Machine
end

section
/-! The schedule: what one step does for each kind of event, and that legal HOST transactions never stop the machine
(R63, R72, R74). -/

namespace Sys2Proof.Machine

/-! The CORE's turn. -/

/-- With the CORE's turn next, by the agenda or by an empty one, the step is that turn (R74, log 2). -/
theorem step_of_coreTurn {s : State} {rest : List Event} (turn : CoreTurn s rest) :
    step s = coreTurn { s with agenda := rest } := by
  obtain ⟨empty, rfl⟩ | head := turn
  · have same : { s with agenda := [] } = s := by rw [← empty]
    rw [step, State.nextEvent, empty, same]
    rfl
  · exact step_of_agenda head

theorem coreTurn_of_busy {s : State} (busy : s.busy = true) : coreTurn s = coreStep s := by
  rw [coreTurn, busy, if_pos rfl]

theorem coreStep_of_decode {s : State} {i : Instr} (decodes : decode s.cmdl = .ok i) : coreStep s = exec i s := by
  rw [coreStep, State.fetchCommand, decodes]

/-- Settles O5: the turn is a CORE step, and that runs the command the latch decodes to. -/
theorem stepRunsTheDecodedCommand : Obligations.StepRunsTheDecodedCommand := by
  intro s rest i turn busy decodes
  rw [step_of_coreTurn turn, coreTurn_of_busy (by exact busy), coreStep_of_decode (by exact decodes)]

/-- Settles O6: the idle turn. -/
theorem idleCoreTakesNoStep : Obligations.IdleCoreTakesNoStep :=
  fun _ _ turn idle => step_of_idle_turn turn idle

/-- Settles O7: a command ends in `completeOk`, over writes that touch no report, or in the abort. -/
theorem commandEndsOkOrFailsWhole : Obligations.CommandEndsOkOrFailsWhole := by
  intro i s
  refine ⟨_, exec_eq_endWith i s, ?_⟩
  cases writesOf i s with
  | ok w => exact ⟨rfl, .inl ⟨rfl, rfl, rfl, rfl⟩⟩
  | error e =>
    obtain ⟨low, high⟩ := e.code_range
    exact ⟨rfl, .inr ⟨e.code, low, high, s.failedWith_abort e⟩⟩

/-! The HOST's turn (R62, R63). -/

section

variable {s : State} {a : WindowAddress} {w : Word} {m : HostMove} {rest : List Event}

theorem hostMove_of_narrow (narrow : m.width ≠ .bits32) : s.hostMove m = .refused .narrowTransaction := by
  have width : m.fullWidth = false := beq_false_of_ne narrow
  simp [State.hostMove, width]

theorem hostMove_of_misaligned (wide : m.width = .bits32) (misaligned : m.address.toNat % 4 ≠ 0) :
    s.hostMove m = .refused .misalignedTransaction := by
  have width : m.fullWidth = true := beq_iff_eq.mpr wide
  have address : m.aligned = false := beq_false_of_ne misaligned
  simp [State.hostMove, width, address]

theorem wellFormed_of_aligned (wide : m.width = .bits32) (aligned : m.address.toNat % 4 = 0) :
    m.wellFormed = true :=
  Bool.and_eq_true_iff.mpr ⟨beq_iff_eq.mpr wide, beq_iff_eq.mpr aligned⟩

/-- Settles O15: the two tests of a transaction in the model's order, and a transaction that passes both answers. -/
theorem onlyAlignedWordTransactionsAreLegal : Obligations.OnlyAlignedWordTransactionsAreLegal := by
  intro s rest m head
  rw [step_of_agenda head]
  exact ⟨hostMove_of_narrow, hostMove_of_misaligned,
    fun wide aligned => hostMove_of_wellFormed (wellFormed_of_aligned wide aligned)⟩

/-- A legal HOST write that is next is the step. -/
theorem step_hostWrite (aligned : a.toNat % 4 = 0) (head : s.agenda = .hostWrite a w :: rest) :
    step s = .next (State.hostWrite { s with agenda := rest } a w) := by
  have address : (HostMove.write .bits32 a w).aligned = true := beq_iff_eq.mpr aligned
  rw [step_of_agenda head, Event.hostWrite, runEvent, State.hostMove, address]
  rfl

/-- A legal HOST read that is next is the step. -/
theorem step_hostRead (aligned : a.toNat % 4 = 0) (head : s.agenda = .hostRead a :: rest) :
    step s = .next (State.hostRead { s with agenda := rest } a) := by
  have address : (HostMove.read .bits32 a).aligned = true := beq_iff_eq.mpr aligned
  rw [step_of_agenda head, Event.hostRead, runEvent, State.hostMove, address]
  rfl

/-! What the HOST finds at an idle and at a busy CORE (R66, R67). -/

theorem State.hostRead_of_idle (idle : s.busy = false) : s.hostRead a = { s with rdata := s.windowRead a } := by
  simp [State.hostRead, idle]

theorem State.hostWrite_of_busy (busy : s.busy = true) : s.hostWrite a w = s := by
  rw [State.hostWrite, if_pos busy]

theorem State.hostRead_status : s.hostRead 0x004 = { s with rdata := s.statusWord } := by
  have shown : (s.busy && locate 0x004 != .status) = false := Bool.and_false s.busy
  rw [State.hostRead, shown]
  rfl

theorem State.hostRead_of_busy (busy : s.busy = true) (notStatus : locate a ≠ .status) :
    s.hostRead a = { s with rdata := Config.busyRead s.draws, draws := s.draws + 1 } := by
  simp [State.hostRead, busy, notStatus]

/-- While `BUSY = 1` no other report is shown beside it (R25). -/
theorem State.Sound.statusWord_of_busy (sound : s.Sound) (busy : s.busy = true) :
    s.statusWord = BitVec.ofNat 32 (1 + 16 * s.ha.st.code) := by
  obtain ⟨done, err⟩ := sound.of_busy busy
  simp [State.statusWord, busy, done, err]

end

/-- Settles O8: `CMD` is a legal address, and the window's word there launches. -/
theorem cmdWriteLaunches : Obligations.CmdWriteLaunches := by
  intro s rest w head
  rw [step_hostWrite rfl head]
  refine ⟨fun idle => ?_, fun busy => ?_⟩
  · rw [State.hostWrite_of_idle (by exact idle)]
    rfl
  · rw [State.hostWrite_of_busy (by exact busy)]

/-- Settles O10: neither transaction sees the agenda it was taken from. -/
theorem hostTransactionsWhenIdle : Obligations.HostTransactionsWhenIdle := by
  intro s rest a idle aligned
  refine ⟨fun head => ?_, fun w head => ?_⟩
  · rw [step_hostRead aligned head, State.hostRead_of_idle (by exact idle)]
    rfl
  · rw [step_hostWrite aligned head, State.hostWrite_of_idle (by exact idle)]

/-- Settles O9: `STATUS` has one address; in a sound state `BUSY` excludes `DONE` and `ERR`. -/
theorem busyCoreAnswersOnlyStatus : Obligations.BusyCoreAnswersOnlyStatus := by
  intro s rest sound busy
  refine ⟨fun a w aligned head => ?_, fun head => ?_, fun a aligned ne head => ?_⟩
  · rw [step_hostWrite aligned head, State.hostWrite_of_busy (by exact busy)]
  · rw [step_hostRead rfl head, State.hostRead_status, ← sound.statusWord_of_busy busy]
    rfl
  · have notStatus : locate a ≠ .status := locate_ne_of_ne ne (by decide)
    rw [step_hostRead aligned head, State.hostRead_of_busy (by exact busy) notStatus]

/-! Runs. -/

/-- An event answers, unless it is a HOST transaction outside the interface. -/
theorem runEvent_of_wellFormed {e : Event} (s : State) (h : e.wellFormed = true) : ∃ t, runEvent e s = .next t := by
  cases e with
  | host m => exact hostMove_of_wellFormed h
  | reset => exact ⟨s.applyReset, rfl⟩
  | core =>
    rw [runEvent, coreTurn]
    split_ifs with busy
    · obtain ⟨i, -, runs⟩ | ⟨_, -, aborts⟩ := coreStep_cases s
      · exact ⟨_, runs.trans (exec_eq_endWith i s)⟩
      · exact ⟨_, aborts⟩
    · exact ⟨s, rfl⟩

theorem State.hostRead_agenda (s : State) (a : WindowAddress) : (s.hostRead a).agenda = s.agenda := by
  unfold State.hostRead
  split_ifs <;> rfl

theorem State.hostWrite_agenda (s : State) (a : WindowAddress) (w : Word) : (s.hostWrite a w).agenda = s.agenda := by
  unfold State.hostWrite State.windowWrite
  split_ifs
  · rfl
  · cases locate a <;> rfl

theorem State.nextEvent_agenda (s : State) : s.nextEvent.2.agenda = s.agenda.tail := by
  unfold State.nextEvent
  cases agenda : s.agenda with
  | nil => exact agenda
  | cons e rest => rfl

/-- A step takes the head of the agenda and leaves the rest of it alone (R74, log 1). -/
theorem step_agenda {s t : State} (answers : step s = .next t) : t.agenda = s.agenda.tail := by
  obtain ⟨e, u, next, event⟩ := step_cases answers
  rw [← s.nextEvent_agenda, next]
  obtain ⟨a, w, -, -, rfl⟩ | ⟨a, -, -, rfl⟩ | ⟨-, -, rfl⟩ | ⟨i, -, -, -, ends⟩ | ⟨_, -, -, -, rfl⟩ | ⟨-, rfl⟩ := event
  · exact u.hostWrite_agenda a w
  · exact u.hostRead_agenda a
  · rfl
  · obtain ⟨-, -, -, -, -, agenda, -⟩ := commandsNeverWriteInputs i u t ends
    exact agenda
  · rfl
  · rfl

theorem State.LegalAgenda.nextEvent {s : State} (legal : s.LegalAgenda) : s.nextEvent.1.wellFormed = true := by
  unfold State.nextEvent
  cases agenda : s.agenda with
  | nil => rfl
  | cons e rest => exact legal e (agenda ▸ List.mem_cons_self)

/-- With a legal agenda the step answers, and what is left of the agenda is legal. -/
theorem State.LegalAgenda.step {s : State} (legal : s.LegalAgenda) : ∃ t, step s = .next t ∧ t.LegalAgenda := by
  obtain ⟨t, answers⟩ := runEvent_of_wellFormed s.nextEvent.2 legal.nextEvent
  refine ⟨t, answers, fun e left => legal e (List.mem_of_mem_tail ?_)⟩
  rwa [← step_agenda answers]

/-- A machine in which every state that satisfies `keeps` answers with another such state never stops from one. -/
theorem run_answers {M : Host.Core} {keeps : M.State → Prop}
    (steps : ∀ s, keeps s → ∃ t, M.step s = .next t ∧ keeps t) (n : Nat) {s : M.State} (h : keeps s) :
    ∃ t, M.run n s = .next t ∧ keeps t := by
  induction n generalizing s with
  | zero => exact ⟨s, rfl, h⟩
  | succ n ih =>
    obtain ⟨u, answers, hu⟩ := steps s h
    rw [Host.Core.run, answers]
    exact ih hu

/-- Settles O20, by induction on the number of steps. -/
theorem legalAgendaNeverStops : Obligations.LegalAgendaNeverStops :=
  fun n _ legal => run_answers (M := Sys2Proof.core) (fun _ legal => State.LegalAgenda.step legal) n legal

end Sys2Proof.Machine
end

section
/-! The unmapped and the read-only words of the window (R61, R64, R65). -/

namespace Sys2Proof.Machine

/-! Aligned addresses by range. -/

section

variable {a : WindowAddress} (aligned : a.toNat % 4 = 0)

include aligned

theorem eq_constantAddress (low : 0x400 ≤ a.toNat) (high : a.toNat < 0x4C0) : ∃ k j, a = constantAddress k j := by
  refine ⟨⟨(a.toNat - 0x400) / 0x20, by omega⟩, ⟨a.toNat % 0x20 / 4, by omega⟩, BitVec.eq_of_toNat_eq ?_⟩
  rw [constantAddress, BitVec.toNat_ofNat]
  dsimp only
  omega

theorem eq_ibufAddress (low : 0x800 ≤ a.toNat) (high : a.toNat < 0xC00) :
    ∃ m, a = ibufAddress m ∧ a.toNat = 0x800 + 4 * m.val := by
  refine ⟨⟨(a.toNat - 0x800) / 4, by omega⟩, BitVec.eq_of_toNat_eq ?_, by dsimp only; omega⟩
  rw [ibufAddress, BitVec.toNat_ofNat]
  dsimp only
  omega

theorem eq_obufAddress (low : 0xC00 ≤ a.toNat) : ∃ m, a = obufAddress m ∧ a.toNat = 0xC00 + 4 * m.val := by
  have small := a.isLt
  refine ⟨⟨(a.toNat - 0xC00) / 4, by omega⟩, BitVec.eq_of_toNat_eq ?_, by dsimp only; omega⟩
  rw [obufAddress, BitVec.toNat_ofNat]
  dsimp only
  omega

end

/-! The gaps of the map. -/

/-- The control block has no word at or beyond `0x01C` (R61). -/
theorem controlLocation_of_ge {n : Nat} (h : 0x01C ≤ n) : controlLocation n = .unmapped := by
  unfold controlLocation
  split
  case h_8 => rfl
  all_goals omega

/-- The block of a point register has no word after its tag (R61). -/
theorem pointLocation_of_gt (i : Fin 4) {offset : Nat} (h : 0x40 < offset) : pointLocation i offset = .unmapped := by
  rw [pointLocation, if_neg (by omega), if_neg (by omega), if_neg (by omega)]

/-- The gaps, whatever the buffer sizes: after the control words, after the scalars, after each point register and after
the constants (R61). -/
theorem locate_of_gap {a : WindowAddress} (aligned : a.toNat % 4 = 0)
    (gap : (0x01C ≤ a.toNat ∧ a.toNat < 0x100) ∨ (0x180 ≤ a.toNat ∧ a.toNat < 0x200) ∨
      (0x200 ≤ a.toNat ∧ a.toNat < 0x400 ∧ 0x40 < a.toNat % 0x80) ∨ (0x4C0 ≤ a.toNat ∧ a.toNat < 0x800)) :
    locate a = .unmapped := by
  unfold locate
  dsimp only
  rw [if_neg (not_not_intro aligned)]
  obtain ⟨low, high⟩ | ⟨low, high⟩ | ⟨low, high, afterTag⟩ | ⟨low, high⟩ := gap
  · rw [if_pos high, controlLocation_of_ge low]
  · rw [if_neg (by omega), if_neg (by omega), if_pos high]
  · rw [if_neg (by omega), if_neg (by omega), if_neg (by omega), if_pos high, pointLocation_of_gt _ afterTag]
  · rw [if_neg (by omega), if_neg (by omega), if_neg (by omega), if_neg (by omega), if_neg (by omega), if_pos high]

/-! A buffer word whose bytes all lie at or beyond the buffer size (R64). -/

theorem State.bufferWord_of_ge {s : State} {b : Config.Buffer} {m : Nat} (beyond : s.bufferSize b ≤ 4 * m) :
    s.bufferWord b m = 0 := by
  refine eq_of_lanes fun lane => ?_
  rw [State.bufferWord_lane, State.windowByte, if_neg (by omega)]
  exact BitVec.extractLsb'_zero.symm

theorem writeLanes_of_ge {size m : Nat} (beyond : size ≤ 4 * m) (w : Word) (lanes : Nat) (mem : Memory) :
    writeLanes size m w lanes mem = mem := by
  induction lanes with
  | zero => rfl
  | succ i ih => rw [writeLanes, if_neg (by omega), ih]

/-! Writes that are ignored. -/

section

variable {s : State} (idle : s.busy = false) (w : Word)

include idle

theorem State.hostWrite_of_unmapped {a : WindowAddress} (unmapped : locate a = .unmapped) : s.hostWrite a w = s := by
  rw [State.hostWrite_of_idle idle, State.windowWrite, unmapped]

theorem State.hostWrite_constantAddress (k : Fin 6) (j : Fin 8) : s.hostWrite (constantAddress k j) w = s := by
  rw [State.hostWrite_of_idle idle, State.windowWrite, locate_constantAddress]

theorem State.hostWrite_obufAddress (m : Fin 256) : s.hostWrite (obufAddress m) w = s := by
  rw [State.hostWrite_of_idle idle, State.windowWrite, locate_obufAddress]

theorem State.hostWrite_ibufAddress_of_ge {m : Fin 256} (beyond : s.sizes.ibuf ≤ 4 * m.val) :
    s.hostWrite (ibufAddress m) w = s := by
  rw [State.hostWrite_ibufAddress idle, writeLanes_of_ge beyond]

end

/-- Settles O12: the gaps of the map, the words of the two buffers beyond their sizes, and the words without a store. -/
theorem unmappedAndReadOnlyWords : Obligations.UnmappedAndReadOnlyWords := by
  intro s a w idle aligned
  constructor
  · intro range
    have unmapped (h : locate a = .unmapped) : s.windowRead a = 0 ∧ s.hostWrite a w = s :=
      ⟨by rw [State.windowRead, h], State.hostWrite_of_unmapped idle w h⟩
    obtain gap | gap | gap | gap | ⟨low, high⟩ | low := range
    · exact unmapped (locate_of_gap aligned (.inl gap))
    · exact unmapped (locate_of_gap aligned (.inr (.inl gap)))
    · exact unmapped (locate_of_gap aligned (.inr (.inr (.inl gap))))
    · exact unmapped (locate_of_gap aligned (.inr (.inr (.inr gap))))
    · obtain ⟨m, rfl, value⟩ := eq_ibufAddress aligned (by omega) high
      have beyond : s.sizes.ibuf ≤ 4 * m.val := by omega
      exact ⟨(s.windowRead_ibufAddress m).trans (State.bufferWord_of_ge beyond),
        State.hostWrite_ibufAddress_of_ge idle w beyond⟩
    · obtain ⟨m, rfl, value⟩ := eq_obufAddress aligned (by omega)
      have beyond : s.sizes.obuf ≤ 4 * m.val := by omega
      exact ⟨(s.windowRead_obufAddress m).trans (State.bufferWord_of_ge beyond), State.hostWrite_obufAddress idle w m⟩
  · rintro (rfl | rfl | rfl | rfl | ⟨low, high⟩ | low)
    · exact State.hostWrite_of_idle idle w 0x004
    · exact State.hostWrite_of_idle idle w 0x008
    · exact State.hostWrite_of_idle idle w 0x014
    · exact State.hostWrite_of_idle idle w 0x018
    · obtain ⟨k, j, rfl⟩ := eq_constantAddress aligned low high
      exact State.hostWrite_constantAddress idle w k j
    · obtain ⟨m, rfl, -⟩ := eq_obufAddress aligned low
      exact State.hostWrite_obufAddress idle w m

end Sys2Proof.Machine
end

section
/-! The command word: its fields as digits, the rows of the opcode map, and the decoder and the encoder as inverses of
each other (R91, R92, R96 to R98). -/

namespace Sys2Proof

/-! Fields of a word (R91). -/

theorem registerField_val (w : Word) (lo : Nat) : (registerField w lo).val = w.toNat / 2 ^ lo % 4 := by
  rw [registerField, BitVec.val_toFin, BitVec.extractLsb'_toNat, Nat.shiftRight_eq_div_pow]

theorem flag_toNat (w : Word) (k : Nat) : (w.getLsbD k).toNat = w.toNat / 2 ^ k % 2 :=
  Nat.toNat_testBit w.toNat k

theorem opcodeField_toNat (w : Word) : (opcodeField w).toNat = w.toNat % 256 := by
  rw [opcodeField, BitVec.extractLsb'_toNat, Nat.shiftRight_zero]

/-- A masked word agrees with the word wherever the mask has only ones. -/
theorem extractLsb'_of_masked {w m v : Word} {lo len : Nat} (masked : w &&& m = v)
    (covered : m.extractLsb' lo len = BitVec.allOnes len) : w.extractLsb' lo len = v.extractLsb' lo len := by
  rw [← masked, BitVec.extractLsb'_and, covered, BitVec.and_allOnes]

theorem getLsbD_of_masked {w m v : Word} {k : Nat} (masked : w &&& m = v) (covered : m.getLsbD k = true) :
    w.getLsbD k = v.getLsbD k := by
  rw [← masked, BitVec.getLsbD_and, covered, Bool.and_true]

/-- The sum of R96 stays below `2^32`: no field overflows into the next one. -/
theorem commandWord_toNat {op : Nat} (byte : op < 256) (f : Fields) :
    (commandWord op f).toNat =
      op + 256 * f.rd.val + 1024 * f.ra.val + 4096 * f.rb.val + 65536 * f.c.toNat + 131072 * f.t.toNat := by
  have hc := f.c.toNat_le
  have ht := f.t.toNat_le
  rw [commandWord, BitVec.toNat_ofNat, Nat.mod_eq_of_lt (by omega)]

/-- The fields read back from a command word are the ones it was made of. -/
theorem fieldsOf_commandWord {op : Nat} (byte : op < 256) (f : Fields) : fieldsOf (commandWord op f) = f := by
  have hc := f.c.toNat_le
  have ht := f.t.toNat_le
  have word := commandWord_toNat byte f
  have register {lo : Nat} {r : RegIndex} (digit : (commandWord op f).toNat / 2 ^ lo % 4 = r.val) :
      registerField (commandWord op f) lo = r := Fin.ext ((registerField_val _ lo).trans digit)
  have flag {k : Nat} {b : Bool} (digit : (commandWord op f).toNat / 2 ^ k % 2 = b.toNat) :
      (commandWord op f).getLsbD k = b := by
    rw [← Bool.ofNat_toNat b, ← digit, ← flag_toNat, Bool.ofNat_toNat]
  have rd : registerField (commandWord op f) 8 = f.rd := register (by omega)
  have ra : registerField (commandWord op f) 10 = f.ra := register (by omega)
  have rb : registerField (commandWord op f) 12 = f.rb := register (by omega)
  have c : (commandWord op f).getLsbD 16 = f.c := flag (by omega)
  have t : (commandWord op f).getLsbD 17 = f.t := flag (by omega)
  rw [fieldsOf, rd, ra, rb, c, t]

/-- A word with zeros in the bits that no field covers is the sum of its fields. -/
theorem eq_commandWord_of_reserved_zero {w : Word} (middle : w.extractLsb' 14 2 = 0) (high : w.extractLsb' 18 14 = 0) :
    w = commandWord (opcodeField w).toNat (fieldsOf w) := by
  have middle' : w.toNat / 2 ^ 14 % 4 = 0 := by
    simpa [BitVec.extractLsb'_toNat, Nat.shiftRight_eq_div_pow] using congrArg BitVec.toNat middle
  have high' : w.toNat / 2 ^ 18 % 16384 = 0 := by
    simpa [BitVec.extractLsb'_toNat, Nat.shiftRight_eq_div_pow] using congrArg BitVec.toNat high
  have bound := w.isLt
  apply BitVec.eq_of_toNat_eq
  rw [commandWord_toNat (opcodeField w).isLt]
  simp only [fieldsOf, registerField_val, flag_toNat, opcodeField_toNat]
  omega

/-! The formats (R92). -/

/-- The fields with those that the format does not use set to 0. -/
def Format.operands : Format → Fields → Fields
  | .z, _ => ⟨0, 0, 0, false, false⟩
  | .d, f => ⟨f.rd, 0, 0, false, false⟩
  | .a, f => ⟨0, f.ra, 0, false, false⟩
  | .da, f => ⟨f.rd, f.ra, 0, false, false⟩
  | .dab, f => ⟨f.rd, f.ra, f.rb, false, false⟩
  | .dac, f => ⟨f.rd, f.ra, 0, f.c, false⟩
  | .act, f => ⟨0, f.ra, 0, f.c, f.t⟩

/-- Every mask covers the opcode field and the bits that are in no field. -/
theorem Format.mask_covers (fmt : Format) :
    fmt.mask.extractLsb' 0 8 = BitVec.allOnes 8 ∧ fmt.mask.extractLsb' 14 2 = BitVec.allOnes 2 ∧
      fmt.mask.extractLsb' 18 14 = BitVec.allOnes 14 := by
  cases fmt <;> decide

/-- The mask covers each field that the format does not use: where the masked word has no operand, the word has only
operands of the format. -/
theorem Format.operands_of_masked {fmt : Format} {w v : Word} (masked : w &&& fmt.mask = v)
    (noOperands : fieldsOf v = ⟨0, 0, 0, false, false⟩) : fmt.operands (fieldsOf w) = fieldsOf w := by
  obtain ⟨hrd, hra, hrb, hc, ht⟩ := Fields.mk.inj noOperands
  have register {lo : Nat} (zero : registerField v lo = 0) (covered : fmt.mask.extractLsb' lo 2 = BitVec.allOnes 2) :
      registerField w lo = 0 := by rw [← zero, registerField, extractLsb'_of_masked masked covered, registerField]
  have flag {k : Nat} (zero : v.getLsbD k = false) (covered : fmt.mask.getLsbD k = true) : w.getLsbD k = false := by
    rw [← zero, getLsbD_of_masked masked covered]
  cases fmt with
  | z =>
    rw [operands, fieldsOf, register hrd (by decide), register hra (by decide), register hrb (by decide),
      flag hc (by decide), flag ht (by decide)]
  | d =>
    rw [operands, fieldsOf, register hra (by decide), register hrb (by decide), flag hc (by decide),
      flag ht (by decide)]
  | a =>
    rw [operands, fieldsOf, register hrd (by decide), register hrb (by decide), flag hc (by decide),
      flag ht (by decide)]
  | da => rw [operands, fieldsOf, register hrb (by decide), flag hc (by decide), flag ht (by decide)]
  | dab => rw [operands, fieldsOf, flag hc (by decide), flag ht (by decide)]
  | dac => rw [operands, fieldsOf, register hrb (by decide), flag ht (by decide)]
  | act => rw [operands, fieldsOf, register hrd (by decide), register hrb (by decide)]

/-! The rows of the opcode map (R96). -/

theorem OpcodeRow.fits_iff (r : OpcodeRow) (w : Word) : r.fits w = true ↔ w &&& r.format.mask = r.op := beq_iff_eq

/-- The match value of a row has nothing outside the opcode field. -/
theorem op_fields_of_mem_opcodeMap {r : OpcodeRow} (row : r ∈ opcodeMap) :
    r.op.toNat < 256 ∧ fieldsOf r.op = ⟨0, 0, 0, false, false⟩ ∧ r.op.extractLsb' 14 2 = 0 ∧
      r.op.extractLsb' 18 14 = 0 := by
  revert r; decide

/-- The encoder's tables say of a row's command what the row says. -/
theorem tables_of_mem_opcodeMap {r : OpcodeRow} (row : r ∈ opcodeMap) (f : Fields) :
    opcodeOf (r.command f) = r.op.toNat ∧ formatOf (r.command f) = r.format ∧
      operandsOf (r.command f) = r.format.operands f := by
  fin_cases row <;> exact ⟨rfl, rfl, rfl⟩

/-- Every command has a row that makes it from its operands. -/
theorem exists_row (i : Instr) : ∃ r ∈ opcodeMap, r.command (operandsOf i) = i := by
  cases i <;> simp [opcodeMap, operandsOf]

theorem opcodeField_of_fits {r : OpcodeRow} {w : Word} (fits : r.fits w = true) : opcodeField w = opcodeField r.op :=
  extractLsb'_of_masked ((r.fits_iff w).mp fits) r.format.mask_covers.1

/-- A word fits at most one row, since the rows have different opcodes (R97). -/
theorem row_unique {r q : OpcodeRow} {w : Word} (hr : r ∈ opcodeMap) (hq : q ∈ opcodeMap) (fits : r.fits w = true)
    (fits' : q.fits w = true) : r = q := by
  have opcodes_nodup : (opcodeMap.map fun r => opcodeField r.op).Nodup := by decide
  exact List.inj_on_of_nodup_map opcodes_nodup hr hq ((opcodeField_of_fits fits).symm.trans (opcodeField_of_fits fits'))

/-- A word that fits a row is the command word of the row's command on the word's fields. -/
theorem eq_encode_of_fits {r : OpcodeRow} {w : Word} (row : r ∈ opcodeMap) (fits : r.fits w = true) :
    w = encode (r.command (fieldsOf w)) := by
  have masked := (r.fits_iff w).mp fits
  obtain ⟨byte, noOperands, middle, high⟩ := op_fields_of_mem_opcodeMap row
  obtain ⟨-, coversMiddle, coversHigh⟩ := r.format.mask_covers
  obtain ⟨opcode, -, operands⟩ := tables_of_mem_opcodeMap row (fieldsOf w)
  have op : (opcodeField w).toNat = r.op.toNat := by
    rw [opcodeField_of_fits fits, opcodeField_toNat, Nat.mod_eq_of_lt byte]
  calc w = commandWord (opcodeField w).toNat (fieldsOf w) :=
        eq_commandWord_of_reserved_zero ((extractLsb'_of_masked masked coversMiddle).trans middle)
          ((extractLsb'_of_masked masked coversHigh).trans high)
    _ = encode (r.command (fieldsOf w)) := by
        rw [encode, opcode, operands, Format.operands_of_masked masked noOperands, op]

/-- The bits that a command's format fixes are its opcode and zeros, for every command (R92, R96). -/
theorem encode_and_mask (i : Instr) : encode i &&& (formatOf i).mask = BitVec.ofNat 32 (opcodeOf i) := by
  cases i with
  | modinv rd ra => exact Laws.EncodingFitsRow.modinv rd ra
  | padd rd ra rb => exact Laws.EncodingFitsRow.padd rd ra rb
  | pdbl rd ra => exact Laws.EncodingFitsRow.pdbl rd ra
  | smul rd ra rb => exact Laws.EncodingFitsRow.smul rd ra rb
  | oncurve ra => exact Laws.EncodingFitsRow.oncurve ra
  | keyvalid ra => exact Laws.EncodingFitsRow.keyvalid ra
  | pldg rd => exact Laws.EncodingFitsRow.pldg rd
  | haInit => exact Laws.EncodingFitsRow.haInit
  | haUpdate => exact Laws.EncodingFitsRow.haUpdate
  | haDigest => exact Laws.EncodingFitsRow.haDigest
  | hbHash => exact Laws.EncodingFitsRow.hbHash
  | b58enc => exact Laws.EncodingFitsRow.b58enc
  | b58dec => exact Laws.EncodingFitsRow.b58dec
  | b58cenc => exact Laws.EncodingFitsRow.b58cenc
  | b58cdec => exact Laws.EncodingFitsRow.b58cdec
  | derivepub rd ra c => exact Laws.EncodingFitsRow.derivepub rd ra c
  | deriveaddr => exact Laws.EncodingFitsRow.deriveaddr
  | wifenc ra c t => exact Laws.EncodingFitsRow.wifenc ra c t
  | wifdec rd => exact Laws.EncodingFitsRow.wifdec rd

/-! The decoder (R97, R98). -/

/-- The decoder answers exactly the command of a row that the word fits. -/
theorem decode_eq_ok_iff {w : Word} {i : Instr} :
    decode w = .ok i ↔ ∃ r ∈ opcodeMap, r.fits w = true ∧ r.command (fieldsOf w) = i := by
  unfold decode
  cases found : opcodeMap.find? (fun r => r.fits w) with
  | none =>
    constructor
    · intro decodes
      dsimp only at decodes
      split_ifs at decodes
    · rintro ⟨r, row, fits, -⟩
      exact absurd fits (List.find?_eq_none.mp found r row)
  | some r =>
    have row := List.mem_of_find?_eq_some found
    have fits := List.find?_some found
    constructor
    · intro decodes
      exact ⟨r, row, fits, Except.ok.inj decodes⟩
    · rintro ⟨q, row', fits', rfl⟩
      rw [row_unique row row' fits fits']

/-- Settles O1: the command's word fits the command's row, and its fields are the operands. -/
theorem decodeOfEncodeIsTheCommand : Obligations.DecodeOfEncodeIsTheCommand := by
  intro i
  obtain ⟨r, row, command⟩ := exists_row i
  obtain ⟨opcode, format, -⟩ := tables_of_mem_opcodeMap row (operandsOf i)
  rw [command] at opcode format
  have fits : r.fits (encode i) = true := by
    rw [r.fits_iff, ← format, encode_and_mask, opcode, BitVec.ofNat_toNat, BitVec.setWidth_eq]
  have fields : fieldsOf (encode i) = operandsOf i :=
    fieldsOf_commandWord (opcode ▸ (op_fields_of_mem_opcodeMap row).1) (operandsOf i)
  exact decode_eq_ok_iff.mpr ⟨r, row, fits, by rw [fields, command]⟩

/-- Settles O2: a word that fits a row is the sum of its fields, since the mask leaves only the operands free. -/
theorem decodedWordIsTheEncoding : Obligations.DecodedWordIsTheEncoding := by
  intro w i decodes
  obtain ⟨r, row, fits, command⟩ := decode_eq_ok_iff.mp decodes
  have word : w = encode i := command ▸ eq_encode_of_fits row fits
  exact ⟨word, word ▸ encode_and_mask i⟩

theorem decode_eq_ok_of_encode {w : Word} {i : Instr} (word : encode i = w) : decode w = .ok i :=
  word ▸ decodeOfEncodeIsTheCommand i

/-- Settles O4: each word is the encoding of its command. -/
theorem specWordsDecode : Obligations.SpecWordsDecode := by
  and_intros <;> exact decode_eq_ok_of_encode (by decide)

namespace Machine

/-- Settles O3: the word decodes to no command, so the CORE step is the abort with code 7. -/
theorem undecodedWordFailsIllegal : Obligations.UndecodedWordFailsIllegal := by
  intro s rest turn busy unfit
  rw [step_of_coreTurn turn, coreTurn_of_busy (by exact busy)]
  obtain ⟨i, decodes, -⟩ | ⟨e, -, aborts⟩ := coreStep_cases { s with agenda := rest }
  · obtain ⟨r, row, fits, -⟩ := decode_eq_ok_iff.mp decodes
    exact absurd ((r.fits_iff _).mp fits) (unfit r row)
  · exact ⟨_, aborts, State.failedWith_abort _ .illegalCommand⟩

end Machine

end Sys2Proof
end

section
/-! The modular inverse and MODINV (R121, R122): `inv` answers the one inverse, or raises on a multiple of `p`. -/

namespace Sys2Proof.Machine

theorem modInverse_of_multiple {a : Nat} (h : a % fieldPrime = 0) : modInverse a = .error .divisionByZero := by
  rw [modInverse, if_pos h]

/-- Where the operand is not zero in the field, the answer of `inv` times the operand is 1 there (R121). -/
theorem modInverse_mul_cancel {a : Nat} (h : (a : ZMod fieldPrime) ≠ 0) :
    ∃ v, modInverse a = .ok v ∧ (v : ZMod fieldPrime) * a = 1 := by
  obtain ⟨v, answers, -, inverse⟩ := modInverse_inverts ((cast_eq_zero_iff a).not.mp h)
  have := (ZMod.natCast_eq_natCast_iff _ _ _).mpr inverse
  exact ⟨v, answers, by simpa using this⟩

/-- MODINV ends with the answer of `inv` in `S[rd]` (R122). -/
theorem exec_modinv_of_ok {rd ra : RegIndex} {s : State} {r : Nat} (answers : modInverse (s.scalar ra).toNat = .ok r) :
    exec (.modinv rd ra) s = .next (s.setScalar rd (BitVec.ofNat 256 r)).completeOk :=
  State.finish_stage_ok s answers _

/-- Settles O30: `inv` answers an inverse below `p`, and any other inverse is congruent to it, since an operand with an
inverse cancels. -/
theorem modinvWritesTheInverse : Obligations.ModinvWritesTheInverse := by
  intro rd ra s notMultiple
  obtain ⟨r, answers, lt, inverse⟩ := modInverse_inverts notMultiple
  rw [mul_comm] at inverse
  have pos : r ≠ 0 := by
    rintro rfl
    have absurdity : 0 ≡ 1 [MOD fieldPrime] := by simpa using inverse
    exact absurd absurdity (by decide)
  refine ⟨r, Nat.pos_of_ne_zero pos, Nat.le_pred_of_lt lt, inverse, ?_, exec_modinv_of_ok answers⟩
  intro r' _ le' product
  have inverse' : (s.S[ra]).toNat * r' ≡ 1 [MOD fieldPrime] := product
  have lt' : r' < fieldPrime := by
    have := fieldPrime_pos
    omega
  have coprime := Nat.coprime_comm.mp (Nat.coprime_of_mul_modEq_one r inverse)
  have congruent : r' ≡ r [MOD fieldPrime] :=
    Nat.ModEq.cancel_left_of_coprime coprime (inverse'.trans inverse.symm)
  exact congruent.eq_of_lt_of_lt lt' lt

end Sys2Proof.Machine
end

section
/-! Addition and doubling of any two point values, on the curve or off it (R123, R124), and the commands PADD and PDBL,
which end as they do (R125, R127). -/

namespace Sys2Proof.Machine

/-- The coordinates of a point value that `getpt` answers are field elements (R120). -/
theorem State.getpt_range {s : State} {i : RegIndex} {x y : Nat} (h : s.getpt i = .ok (.aff x y)) :
    x < fieldPrime ∧ y < fieldPrime := by
  obtain ⟨-, inf⟩ | ⟨-, hx, hy, aff⟩ := PointRegister.value_eq_ok h
  · cases inf
  · cases aff
    exact ⟨hx, hy⟩

/-! The formulas of R123 case 5 and R124 case 3. -/

/-- The chord construction with slope `lam` answers a pair of field elements, given by the formulas modulo `p`. -/
theorem chordPoint_formulas (lam x₁ y₁ x₂ : Nat) :
    ∃ x₃ y₃, chordPoint lam x₁ y₁ x₂ = .aff x₃ y₃ ∧ x₃ < fieldPrime ∧ y₃ < fieldPrime ∧
      (x₃ : Int) ≡ lam * lam - x₁ - x₂ [ZMOD fieldPrime] ∧
      (y₃ : Int) ≡ lam * ((x₁ : Int) - x₃) - y₁ [ZMOD fieldPrime] := by
  refine ⟨_, _, rfl, fieldSub_lt _ _, fieldSub_lt _ _, ?_, ?_⟩
  all_goals
    rw [← ZMod.intCast_eq_intCast_iff]
    simp

/-- A pair with `y ≠ 0` doubles by the tangent formulas (R124 case 3). -/
theorem pointDouble_tangent {x y : Nat} (range : y < fieldPrime) (ne : y ≠ 0) :
    ∃ x₃ y₃, IsTangentDouble x y x₃ y₃ ∧ pointDouble (.aff x y) = .ok (.aff x₃ y₃) := by
  have : Fact fieldPrime.Prime := ⟨Laws.fieldPrime_prime⟩
  have hy : (y : ZMod fieldPrime) ≠ 0 := by
    rwa [Ne, cast_eq_zero_iff, Nat.mod_eq_of_lt range]
  have denominator : (fieldMul 2 y : ZMod fieldPrime) ≠ 0 := by
    simpa using ⟨two_ne_zero_mod_fieldPrime, hy⟩
  obtain ⟨v, answers, inverse⟩ := modInverse_mul_cancel denominator
  obtain ⟨x₃, y₃, point, hx₃, hy₃, formulaX, formulaY⟩ :=
    chordPoint_formulas (fieldMul (fieldAdd (fieldMul (fieldMul 3 x) x) coefficientA) v) x y x
  refine ⟨x₃, y₃, ⟨hx₃, hy₃, _, ?_, formulaX, formulaY⟩, ?_⟩
  · rw [← ZMod.intCast_eq_intCast_iff]
    push_cast [cast_fieldMul, cast_fieldAdd] at inverse ⊢
    linear_combination (3 * x * x + coefficientA : ZMod fieldPrime) * inverse
  · rw [pointDouble, if_neg ne, stage_as_match, answers, ← point]

theorem pointDouble_of_y_zero (x : Nat) : pointDouble (.aff x 0) = .error .divisionByZero := by
  rw [pointDouble, if_pos rfl]

/-- Equal pairs are doubled (R123 case 3). -/
theorem pointAdd_self (x y : Nat) : pointAdd (.aff x y) (.aff x y) = pointDouble (.aff x y) := by
  rw [pointAdd, if_pos ⟨rfl, rfl⟩]

theorem pointAdd_inf (P : Point) : pointAdd P .inf = .ok P := by
  cases P <;> rfl

/-- Opposite pairs give the identity (R123 case 4). -/
theorem pointAdd_of_opposite {x y₁ y₂ : Nat} (ne : y₁ ≠ y₂) (opposite : (y₁ + y₂) % fieldPrime = 0) :
    pointAdd (.aff x y₁) (.aff x y₂) = .ok .inf := by
  rw [pointAdd, if_neg (fun both => ne both.2), if_pos ⟨rfl, opposite⟩]

/-- Pairs with the same `x`, neither equal nor opposite, have no slope (R123 case 5, R121). -/
theorem pointAdd_of_unrelated {x y₁ y₂ : Nat} (ne : y₁ ≠ y₂) (unrelated : (y₁ + y₂) % fieldPrime ≠ 0) :
    pointAdd (.aff x y₁) (.aff x y₂) = .error .divisionByZero := by
  have noSlope : fieldSub x x % fieldPrime = 0 := by
    rw [← cast_eq_zero_iff, cast_fieldSub, sub_self]
  rw [pointAdd, if_neg (fun both => ne both.2), if_neg (fun both => unrelated both.2), stage_as_match,
    modInverse_of_multiple noSlope]

/-- Pairs with different `x` are added by the chord formulas (R123 case 5). -/
theorem pointAdd_chord {x₁ x₂ : Nat} (y₁ y₂ : Nat) (range₁ : x₁ < fieldPrime) (range₂ : x₂ < fieldPrime)
    (ne : x₁ ≠ x₂) :
    ∃ x₃ y₃, IsChordSum x₁ y₁ x₂ y₂ x₃ y₃ ∧ pointAdd (.aff x₁ y₁) (.aff x₂ y₂) = .ok (.aff x₃ y₃) := by
  have denominator : (fieldSub x₂ x₁ : ZMod fieldPrime) ≠ 0 := by
    rw [cast_fieldSub, sub_ne_zero, Ne, cast_inj_of_lt range₂ range₁]
    exact ne.symm
  obtain ⟨v, answers, inverse⟩ := modInverse_mul_cancel denominator
  obtain ⟨x₃, y₃, point, hx₃, hy₃, formulaX, formulaY⟩ := chordPoint_formulas (fieldMul (fieldSub y₂ y₁) v) x₁ y₁ x₂
  refine ⟨x₃, y₃, ⟨hx₃, hy₃, _, ?_, formulaX, formulaY⟩, ?_⟩
  · rw [← ZMod.intCast_eq_intCast_iff]
    push_cast [cast_fieldMul, cast_fieldSub] at inverse ⊢
    linear_combination ((y₂ : ZMod fieldPrime) - y₁) * inverse
  · rw [pointAdd, if_neg (fun both => ne both.1), if_neg (fun both => ne both.1), stage_as_match, answers, ← point]

/-! The ends of PADD and PDBL. -/

section

variable {rd ra rb : RegIndex} {s : State} {P Q R : Point} {e : CommandError}

theorem exec_padd_of_ok (readP : s.getpt ra = .ok P) (readQ : s.getpt rb = .ok Q) (sum : pointAdd P Q = .ok R) :
    exec (.padd rd ra rb) s = .next (s.setPoint rd R).completeOk :=
  (State.finish_stage_ok s readP _).trans ((State.finish_stage_ok s readQ _).trans (State.finish_stage_ok s sum _))

/-- The one error of an addition is `DivisionByZero`, code 3 (R123, R231). -/
theorem exec_padd_of_error (readP : s.getpt ra = .ok P) (readQ : s.getpt rb = .ok Q)
    (raises : pointAdd P Q = .error e) : ∃ t, exec (.padd rd ra rb) s = .next t ∧ FailedWith s t 3 := by
  obtain rfl := pointAdd_raises raises
  exact ⟨_, (State.finish_stage_ok s readP _).trans
    ((State.finish_stage_ok s readQ _).trans (State.finish_stage_error s raises _)), s.failedWith_abort .divisionByZero⟩

theorem exec_pdbl_of_ok (readP : s.getpt ra = .ok P) (double : pointDouble P = .ok R) :
    exec (.pdbl rd ra) s = .next (s.setPoint rd R).completeOk :=
  (State.finish_stage_ok s readP _).trans (State.finish_stage_ok s double _)

/-- The one error of a doubling is `DivisionByZero`, code 3 (R124, R231). -/
theorem exec_pdbl_of_error (readP : s.getpt ra = .ok P) (raises : pointDouble P = .error e) :
    ∃ t, exec (.pdbl rd ra) s = .next t ∧ FailedWith s t 3 := by
  obtain rfl := pointDouble_raises raises
  exact ⟨_, (State.finish_stage_ok s readP _).trans (State.finish_stage_error s raises _),
    s.failedWith_abort .divisionByZero⟩

end

/-- Settles O31: the cases of R123 in the rule's order. -/
theorem paddWritesTheSum : Obligations.PaddWritesTheSum := by
  intro rd ra rb s P Q readP readQ
  refine ⟨?_, ?_, ?_⟩
  · rintro rfl
    exact exec_padd_of_ok readP readQ rfl
  · rintro rfl
    exact exec_padd_of_ok readP readQ (pointAdd_inf P)
  rintro x₁ y₁ x₂ y₂ rfl rfl
  obtain ⟨hx₁, hy₁⟩ := State.getpt_range readP
  refine ⟨?_, ?_, fun ne => ?_⟩
  · rintro rfl rfl ne
    obtain ⟨x₃, y₃, tangent, double⟩ := pointDouble_tangent hy₁ ne
    exact ⟨x₃, y₃, tangent, exec_padd_of_ok readP readQ ((pointAdd_self x₁ y₁).trans double)⟩
  · rintro rfl ne opposite
    exact exec_padd_of_ok readP readQ (pointAdd_of_opposite ne opposite)
  · obtain ⟨x₃, y₃, chord, sum⟩ := pointAdd_chord y₁ y₂ hx₁ (State.getpt_range readQ).1 ne
    exact ⟨x₃, y₃, chord, exec_padd_of_ok readP readQ sum⟩

/-- Settles O32: the cases 1 and 3 of R124. -/
theorem pdblWritesTheDouble : Obligations.PdblWritesTheDouble := by
  refine fun rd ra s => ⟨fun read => exec_pdbl_of_ok read rfl, fun x₁ y₁ read ne => ?_⟩
  obtain ⟨x₃, y₃, tangent, double⟩ := pointDouble_tangent (State.getpt_range read).2 ne
  exact ⟨x₃, y₃, tangent, exec_pdbl_of_ok read double⟩

end Sys2Proof.Machine
end

section
/-! The iterations of double-and-add on any base (R126) and the command SMUL, which ends as they do (R128). -/

namespace Sys2Proof.Machine

section

variable {k : Scalar} {turns i : Nat} {R R' Q Q' S P : Point} {e : CommandError}

/-! One iteration: the addition if bit `i` is 1, then the doubling. -/

theorem doubleAndAdd_of_answers (added : (if k.getLsbD i then pointAdd R Q else .ok R) = .ok R')
    (doubled : pointDouble Q = .ok Q') :
    doubleAndAdd k (turns + 1) i R Q = doubleAndAdd k turns (i + 1) R' Q' := by
  rw [doubleAndAdd_succ, added, doubled]

/-- An iteration fails when its addition or its doubling does, whatever is left to do. -/
theorem doubleAndAdd_of_raises
    (raises : (k.getLsbD i = true ∧ pointAdd R Q = .error e) ∨ pointDouble Q = .error e) :
    ∃ e', doubleAndAdd k (turns + 1) i R Q = .error e' := by
  rw [doubleAndAdd_succ]
  obtain ⟨bit, raises⟩ | raises := raises
  · rw [if_pos bit, raises]
    exact ⟨e, rfl⟩
  · rw [raises]
    cases (if k.getLsbD i then pointAdd R Q else .ok R) with
    | error e' => exact ⟨e', rfl⟩
    | ok R' => exact ⟨e, rfl⟩

/-- When the iterations answer, the first one does, and the others answer the same from where it ends. -/
theorem doubleAndAdd_eq_ok (answers : doubleAndAdd k (turns + 1) i R Q = .ok S) :
    ∃ R' Q', (if k.getLsbD i then pointAdd R Q else .ok R) = .ok R' ∧ pointDouble Q = .ok Q' ∧
      doubleAndAdd k turns (i + 1) R' Q' = .ok S := by
  rw [doubleAndAdd_succ] at answers
  split at answers
  · cases answers
  · rename_i R' added
    split at answers
    · cases answers
    · rename_i Q' doubled
      exact ⟨R', Q', added, doubled, answers⟩

/-! Several iterations. -/

/-- Where no bit from `i` on is 1, the iterations leave the accumulator alone. -/
theorem doubleAndAdd_of_lt (small : k.toNat < 2 ^ i)
    (answers : doubleAndAdd k turns i R Q = .ok S) : S = R := by
  induction turns generalizing i R Q with
  | zero => exact (Except.ok.inj answers).symm
  | succ turns ih =>
    obtain ⟨R', Q', added, -, rest⟩ := doubleAndAdd_eq_ok answers
    obtain rfl : R = R' := by
      simpa [← BitVec.testBit_toNat, Nat.testBit_lt_two_pow small] using added
    exact ih (small.trans (Nat.pow_lt_pow_succ Nat.one_lt_two)) rest

/-- From the identity every iteration adds the identity and doubles it. -/
theorem doubleAndAdd_inf (k : Scalar) (turns i : Nat) : doubleAndAdd k turns i .inf .inf = .ok .inf := by
  induction turns generalizing i with
  | zero => rfl
  | succ turns ih =>
    have added : (if k.getLsbD i then pointAdd .inf .inf else .ok .inf) = .ok Point.inf := ite_self _
    exact (doubleAndAdd_of_answers added rfl).trans (ih (i + 1))

end

/-- After the first `i` iterations of a run, the rest of them starts from where the run is (R126). -/
theorem scalarMultiply_of_run {k : Scalar} {P : Point} {i turns : Nat} {R Q : Nat → Point}
    (run : DoubleAndAddRun k P i R Q) (all : turns + i = 256) :
    scalarMultiply k P = doubleAndAdd k turns i (R i) (Q i) := by
  obtain ⟨startR, startQ, iterations⟩ := run
  induction i generalizing turns with
  | zero =>
    obtain rfl : turns = 256 := all
    rw [startR, startQ, scalarMultiply]
  | succ i ih =>
    obtain ⟨adds, keeps, doubles⟩ := iterations i (Nat.lt_succ_self i)
    have added : (if k.getLsbD i then pointAdd (R i) (Q i) else .ok (R i)) = .ok (R (i + 1)) := by
      cases bit : k.getLsbD i with
      | true => simpa using adds bit
      | false => simpa using (keeps bit).symm
    rw [ih (turns := turns + 1) (by omega) fun j below => iterations j (Nat.lt_succ_of_lt below),
      doubleAndAdd_of_answers added doubles]

/-! The ends of SMUL. -/

section

variable {rd ra rb : RegIndex} {s : State} {P R : Point} {e : CommandError}

theorem exec_smul_of_ok (read : s.getpt ra = .ok P) (multiple : scalarMultiply (s.scalar rb) P = .ok R) :
    exec (.smul rd ra rb) s = .next (s.setPoint rd R).completeOk :=
  (State.finish_stage_ok s read _).trans (State.finish_stage_ok s multiple _)

/-- The one error of a scalar multiplication is `DivisionByZero`, code 3 (R126, R231). -/
theorem exec_smul_of_error (read : s.getpt ra = .ok P) (raises : scalarMultiply (s.scalar rb) P = .error e) :
    ∃ t, exec (.smul rd ra rb) s = .next t ∧ FailedWith s t 3 := by
  obtain rfl := doubleAndAdd_raises raises
  exact ⟨_, (State.finish_stage_ok s read _).trans (State.finish_stage_error s raises _),
    s.failedWith_abort .divisionByZero⟩

end

/-- Settles O38: on the curve every iteration answers, since the accumulator and the running point stay points of the
curve's group. -/
theorem smulOnTheCurveCompletes : Obligations.SmulOnTheCurveCompletes := by
  intro rd ra rb s P read onCurve
  have : Fact fieldPrime.Prime := ⟨Laws.fieldPrime_prime⟩
  obtain ⟨X, hX⟩ := P.ofCurve_iff_denotes.mp onCurve
  obtain ⟨R, multiple, hR⟩ := scalarMultiply_denotes (s.scalar rb) hX
  exact ⟨R, R.ofCurve_iff_denotes.mpr ⟨_, hR⟩, exec_smul_of_ok read multiple⟩

/-- Settles O36: a run of all iterations is the result, and a run up to one that fails is its error. -/
theorem smulWritesDoubleAndAdd : Obligations.SmulWritesDoubleAndAdd := by
  intro rd ra rb s P read
  refine ⟨fun R multiple => exec_smul_of_ok read multiple, fun R Q run => ?_, fun R Q i e lt run raises => ?_⟩
  · exact exec_smul_of_ok read (scalarMultiply_of_run (turns := 0) run rfl)
  · obtain ⟨e', fails⟩ := doubleAndAdd_of_raises (turns := 255 - i) raises
    exact exec_smul_of_error read ((scalarMultiply_of_run run (by omega)).trans fails)

/-- Settles O40: after the iterations of the bits that are 1 the accumulator stays as it is. -/
theorem smulOfSmallScalars : Obligations.SmulOfSmallScalars := by
  refine ⟨fun P R => ⟨fun zero => ?_, fun one => ?_, fun two => ?_⟩, fun k => doubleAndAdd_inf k 256 0⟩
  · exact doubleAndAdd_of_lt (by decide) zero
  · obtain ⟨R₁, Q₁, added, -, rest⟩ := doubleAndAdd_eq_ok one
    obtain rfl : P = R₁ := Except.ok.inj added
    exact doubleAndAdd_of_lt (by decide) rest
  · obtain ⟨R₁, Q₁, kept, doubled, rest⟩ := doubleAndAdd_eq_ok two
    obtain rfl : .inf = R₁ := Except.ok.inj kept
    obtain ⟨R₂, Q₂, added, -, rest⟩ := doubleAndAdd_eq_ok rest
    obtain rfl : Q₁ = R₂ := Except.ok.inj added
    rw [doubleAndAdd_of_lt (by decide) rest, doubled]

/-- Settles O33: the stage of each command that raises. -/
theorem arithmeticFailures : Obligations.ArithmeticFailures := by
  intro rd ra rb s
  refine ⟨fun multiple => ?_, fun x₁ read => ⟨?_, fun readQ => ?_, ?_⟩, fun x₁ y₁ y₂ readP readQ ne unrelated => ?_,
    fun P e read raises => exec_smul_of_error read raises⟩
  · exact ⟨_, State.finish_stage_error s (modInverse_of_multiple multiple) _, s.failedWith_abort .divisionByZero⟩
  · exact exec_pdbl_of_error read (pointDouble_of_y_zero x₁)
  · exact exec_padd_of_error read readQ ((pointAdd_self x₁ 0).trans (pointDouble_of_y_zero x₁))
  · obtain ⟨e, raises⟩ := doubleAndAdd_of_raises (k := s.scalar rb) (turns := 255) (i := 0) (R := .inf)
      (.inr (pointDouble_of_y_zero x₁))
    exact exec_smul_of_error read raises
  · exact exec_padd_of_error readP readQ (pointAdd_of_unrelated ne unrelated)

end Sys2Proof.Machine
end

section
/-! The predicates and the commands that write `FLAGS.T` (R129 to R132). -/

namespace Sys2Proof.Machine

/-- The field operations of `isOnCurve` give the two sides of the equation modulo `p` (R12, R129). -/
theorem isOnCurve_eq_decide (x y : Nat) :
    isOnCurve (.aff x y) =
      decide ((y * y) % fieldPrime = (x * x * x + coefficientA * x + coefficientB) % fieldPrime) := by
  have sides : fieldAdd (fieldAdd (fieldMul (fieldMul x x) x) (fieldMul coefficientA x)) coefficientB =
      (x * x * x + coefficientA * x + coefficientB) % fieldPrime := by
    simp only [fieldAdd, fieldMul, Nat.mod_mul_mod, Nat.mod_add_mod, Nat.add_mod_mod]
  rw [isOnCurve, sides, beq_eq_decide, fieldMul]

/-- Settles O41: the point is read as by `getpt`, and the flag written is the equation's truth. -/
theorem oncurveWritesTheEquation : Obligations.OncurveWritesTheEquation := by
  intro ra s
  refine ⟨?_, fun read => State.finish_stage_ok s read _, fun x y read => ?_, fun e raises => ?_⟩
  · simp [encode, commandWord, opcodeOf, operandsOf]
  · rw [← isOnCurve_eq_decide]
    exact State.finish_stage_ok s read _
  · obtain ⟨rfl, -⟩ := PointRegister.value_eq_error raises
    exact ⟨_, State.finish_stage_error s raises _, s.failedWith_abort .operandRange⟩

/-- Settles O42: KEYVALID has no stage that could raise. -/
theorem keyvalidWritesTheRange : Obligations.KeyvalidWritesTheRange := by
  refine fun ra s => ⟨?_, rfl⟩
  simp [encode, commandWord, opcodeOf, operandsOf]

end Sys2Proof.Machine
end

section
/-! Hash-A (R150 to R160): full blocks of a string cut in two, the accumulator as a function of the message so far, and
the commands HA.INIT, HA.UPDATE and HA.DIGEST. -/

namespace Sys2Proof.Machine

/-! Big-endian strings (R11). -/

@[simp] theorem be_length (v k : Nat) : (be v k).length = k := by
  induction k with
  | zero => rfl
  | succ k ih => rw [be, List.length_cons, ih]

/-- `be(v, k)` reads only the low `8k` bits of `v`. -/
theorem be_mod_two_pow {k n : Nat} (v : Nat) (covers : 8 * k ≤ n) : be (v % 2 ^ n) k = be v k := by
  induction k with
  | zero => rfl
  | succ k ih =>
    have leading : BitVec.ofNat 8 (v % 2 ^ n / 2 ^ (8 * k)) = BitVec.ofNat 8 (v / 2 ^ (8 * k)) := by
      apply BitVec.eq_of_getLsbD_eq
      intro i below
      have low : i + 8 * k < n := by omega
      simp [BitVec.getLsbD_ofNat, Nat.testBit_div_two_pow, Nat.testBit_mod_two_pow, low]
    rw [be, leading, ih (by omega), be]

/-! Full blocks and the remainder (R156, R158). -/

section

variable (b d : Bytes)

theorem takeBlocks_add (m n : Nat) : takeBlocks (m + n) b = takeBlocks m b ++ takeBlocks n (b.drop (64 * m)) := by
  induction m generalizing b with
  | zero => simp [takeBlocks]
  | succ m ih =>
    rw [Nat.succ_add, takeBlocks, ih, List.drop_drop, takeBlocks, List.cons_append, Nat.mul_succ, Nat.add_comm 64]

/-- Blocks that lie in the first of two strings are blocks of it. -/
theorem takeBlocks_append_of_le {n : Nat} (inside : 64 * n ≤ b.length) : takeBlocks n (b ++ d) = takeBlocks n b := by
  induction n generalizing b with
  | zero => rfl
  | succ n ih =>
    have rest : 64 * n ≤ (b.drop 64).length := by rw [List.length_drop]; omega
    rw [takeBlocks, List.take_append_of_le_length (by omega), List.drop_append_of_le_length (by omega), ih _ rest,
      takeBlocks]

/-- The number of blocks of two strings: those of the first, and those of its remainder with the second. -/
theorem blockCount_append :
    (b ++ d).length / 64 = b.length / 64 + (remainder b ++ d).length / 64 := by
  rw [List.length_append, List.length_append, remainder_length]
  omega

theorem drop_blocks_append : (b ++ d).drop (64 * (b.length / 64)) = remainder b ++ d :=
  List.drop_append_of_le_length (Nat.mul_div_le b.length 64)

theorem fullBlocks_append : fullBlocks (b ++ d) = fullBlocks b ++ fullBlocks (remainder b ++ d) := by
  rw [fullBlocks, blockCount_append, takeBlocks_add, drop_blocks_append,
    takeBlocks_append_of_le b d (Nat.mul_div_le b.length 64), fullBlocks, fullBlocks]

theorem remainder_append : remainder (b ++ d) = remainder (remainder b ++ d) := by
  have counted : 64 * ((b ++ d).length / 64) = 64 * (b.length / 64) + 64 * ((remainder b ++ d).length / 64) := by
    rw [blockCount_append, Nat.mul_add]
  rw [remainder, counted, ← List.drop_drop, drop_blocks_append]
  rfl

/-- Compression goes on from the remainder where the first of two strings ended. -/
theorem compressBlocksA_append (h : HashAWords) :
    compressBlocksA h (b ++ d) = compressBlocksA (compressBlocksA h b) (remainder b ++ d) := by
  rw [compressBlocksA, fullBlocks_append, List.foldl_append, compressBlocksA, compressBlocksA]

end

/-! The accumulator (R158, R159). -/

/-- Two updates are one update with the strings joined. -/
theorem HashAccumulator.append_append (a : HashAccumulator) (d e : Bytes) :
    (a.append d).append e = a.append (d ++ e) := by
  have counted : BitVec.ofNat 64 (8 * (d ++ e).length) =
      BitVec.ofNat 64 (8 * d.length) + BitVec.ofNat 64 (8 * e.length) := by
    rw [List.length_append, Nat.mul_add, BitVec.ofNat_add]
  simp only [append, counted, ← List.append_assoc, compressBlocksA_append (a.buf ++ d), remainder_append (a.buf ++ d),
    BitVec.add_assoc]

theorem padA_mod_two_pow (rem : Bytes) (bitLength : Nat) : padA rem (bitLength % 2 ^ 64) = padA rem bitLength := by
  rw [padA, be_mod_two_pow bitLength (Nat.le_refl (8 * 8)), padA]

/-- The accumulator of a message gives the digest of R156. -/
theorem HashAccumulator.digest_fresh_append (m : Bytes) : (fresh.append m).finalWords.digest = hashA m := by
  have bits : (fresh.append m).bits = BitVec.ofNat 64 (8 * m.length) := BitVec.zero_add _
  rw [finalWords, bits, BitVec.toNat_ofNat, padA_mod_two_pow]
  rfl

@[simp] theorem HashAWords.digest_length (h : HashAWords) : h.digest.length = 32 := by
  simp only [digest, List.length_append, be_length]

/-! The output (R13, R42). -/

theorem State.outputOnly_putOutput (s : State) (b : Bytes) : OutputOnly s (s.putOutput b).completeOk b :=
  ⟨rfl, s.memRead_putOutput b, fun _ beyond => s.bufferByte_putOutput b beyond⟩

theorem State.setAccumulator_putOutput (s : State) (a : HashAccumulator) (b : Bytes) :
    (s.setAccumulator a).putOutput b = (s.putOutput b).setAccumulator a := rfl

@[simp] theorem State.completeOk_memRead (s : State) (b : Config.Buffer) (n : Nat) :
    s.completeOk.memRead b n = s.memRead b n := rfl

@[simp] theorem State.setAccumulator_memRead (s : State) (a : HashAccumulator) (b : Config.Buffer) (n : Nat) :
    (s.setAccumulator a).memRead b n = s.memRead b n := rfl

/-! The ends of the commands. -/

section

variable {s t : State}

theorem State.activeAccumulator_of_active (active : s.ha.st = .active) : s.activeAccumulator = .ok s.ha :=
  if_pos active

theorem exec_haUpdate_of_active (active : s.ha.st = .active) (fits : s.ilen.toNat ≤ s.sizes.ibuf) :
    exec .haUpdate s = .next (s.setAccumulator (s.ha.append s.input)).completeOk :=
  (State.finish_stage_ok s (State.activeAccumulator_of_active active) _).trans
    (State.finish_stage_ok s (State.checkedInput_of_le fits) _)

theorem exec_haDigest_of_active (active : s.ha.st = .active) (fits : s.ha.finalWords.digest.length ≤ s.sizes.obuf) :
    exec .haDigest s =
      .next ((s.setAccumulator s.ha.finalised).putOutput s.ha.finalWords.digest).completeOk := by
  rw [State.setAccumulator_putOutput]
  exact (State.finish_stage_ok s (State.activeAccumulator_of_active active) _).trans
    (State.finish_stage_ok s (State.out_of_le fits) _)

/-- An HA.UPDATE that ended `Ok` appended its input. -/
theorem ha_of_haUpdate_done (ends : exec .haUpdate s = .next t) (done : t.done = true) :
    t.ha = s.ha.append s.input := by
  obtain ⟨e, -, rfl⟩ | ⟨a, read, ends⟩ := State.finish_stage_cases _ ends
  · cases done
  obtain ⟨e, -, rfl⟩ | ⟨d, input, ends⟩ := State.finish_stage_cases _ ends
  · cases done
  obtain ⟨-, rfl⟩ := State.activeAccumulator_eq_ok read
  obtain ⟨-, rfl⟩ := State.checkedInput_eq_ok input
  obtain rfl := Host.Outcome.next.inj ends
  rfl

/-- An HA.DIGEST that ended `Ok` left the digest in `OBUF`. -/
theorem obuf_of_haDigest_done (ends : exec .haDigest s = .next t) (done : t.done = true) :
    t.memRead .obuf 32 = s.ha.finalWords.digest := by
  obtain ⟨e, -, rfl⟩ | ⟨a, read, ends⟩ := State.finish_stage_cases _ ends
  · cases done
  obtain ⟨e, -, rfl⟩ | ⟨u, written, ends⟩ := State.finish_stage_cases _ ends
  · cases done
  obtain ⟨-, rfl⟩ := State.activeAccumulator_eq_ok read
  obtain ⟨-, rfl⟩ := State.out_eq_ok written
  obtain rfl := Host.Outcome.next.inj ends
  have length : s.ha.finalWords.digest.length = 32 := s.ha.finalWords.digest_length
  rw [← length, State.completeOk_memRead, State.setAccumulator_memRead, State.memRead_putOutput]

end

/-- The invariant of a stream: the accumulator is that of the message so far. -/
theorem ha_of_streams {s t : State} {ds : List Bytes} (stream : Streams s ds t) {a : HashAccumulator} {m : Bytes}
    (start : s.ha = a.append m) : t.ha = a.append (m ++ ds.flatten) := by
  induction ds generalizing s m with
  | nil =>
    obtain rfl : t = s := stream
    rw [start, List.flatten_nil, List.append_nil]
  | cons d ds ih =>
    obtain ⟨u, v, kept, rfl, ends, done, rest⟩ := stream
    have joined : v.ha = a.append (m ++ u.input) := by
      rw [ha_of_haUpdate_done ends done, kept, start, HashAccumulator.append_append]
    rw [ih rest joined, List.flatten_cons, List.append_assoc]

/-- Settles O48: HA.INIT starts the stream with the empty message, and the accumulator of the whole message gives its
digest. -/
theorem streamingEqualsHashA : Obligations.StreamingEqualsHashA := by
  intro s₀ s₁ s₂ u t ds init stream kept ends done
  have start : s₁.ha = HashAccumulator.fresh.append [] := by
    obtain rfl := Host.Outcome.next.inj init
    rfl
  rw [obuf_of_haDigest_done ends done, kept, ha_of_streams stream start, List.nil_append,
    HashAccumulator.digest_fresh_append]

/-- Settles O45: the end of the active case, with the block count of the pending bytes and the input. -/
theorem haUpdateAppends : Obligations.HaUpdateAppends := by
  intro s active fits
  rw [exec_haUpdate_of_active active fits, ← active, ← s.input_length, ← List.length_append]
  rfl

/-- Settles O46: 32 bytes fit in any legal `OBUF` (R7). -/
theorem haDigestWritesTheDigest : Obligations.HaDigestWritesTheDigest := by
  intro s legal active
  obtain ⟨-, -, large, -⟩ := legal
  have length : s.ha.finalWords.digest.length = 32 := s.ha.finalWords.digest_length
  exact ⟨_, exec_haDigest_of_active active (by omega),
    (s.setAccumulator s.ha.finalised).outputOnly_putOutput s.ha.finalWords.digest, rfl, length⟩

/-- Settles O44: HA.INIT has no stage that could raise. -/
theorem haInitMakesFresh : Obligations.HaInitMakesFresh := by
  refine fun s => ⟨?_, rfl⟩
  simp [encode, commandWord, opcodeOf, operandsOf]

/-- Settles O50: the kernel evaluates the hash functions, once for each digest. -/
theorem knownDigests : Obligations.KnownDigests := by
  refine ⟨?_, ?_, ?_, ?_⟩ <;> decide +kernel

end Sys2Proof.Machine
end

section
/-! The commands that read the input buffer, on an input longer than it (R233). -/

namespace Sys2Proof.Machine

/-- The commands whose first stage reads the input. -/
theorem exec_starts_with_input (s : State) (rd : RegIndex) :
    ∀ i ∈ [Instr.hbHash, .b58enc, .b58dec, .b58cenc, .b58cdec, .deriveaddr, .wifdec rd],
      ∃ after : Bytes → Except CommandError State, exec i s = s.finish (do let b ← s.checkedInput; after b) := by
  simp only [List.forall_mem_cons]
  exact ⟨⟨_, rfl⟩, ⟨_, rfl⟩, ⟨_, rfl⟩, ⟨_, rfl⟩, ⟨_, rfl⟩, ⟨_, rfl⟩, ⟨_, rfl⟩, nofun⟩

/-- Settles O51: the stage that reads the input raises; in HA.UPDATE it comes after the test of the accumulator
(R237). -/
theorem inputBeyondBufferFails : Obligations.InputBeyondBufferFails := by
  intro s rd beyond
  have raises : s.checkedInput = .error .operandRange := State.checkedInput_of_gt beyond
  have failed : FailedWith s (s.abort .operandRange) 8 := s.failedWith_abort .operandRange
  refine ⟨fun i reads => ?_, fun active => ⟨_, ?_, failed⟩⟩
  · obtain ⟨after, stages⟩ := exec_starts_with_input s rd i reads
    exact ⟨_, stages.trans (State.finish_stage_error s raises after), failed⟩
  · exact (State.finish_stage_ok s (State.activeAccumulator_of_active active) _).trans
      (State.finish_stage_error s raises _)

end Sys2Proof.Machine
end

section
/-! Hash-B (R170 to R179): the length of the digest, and the command HB.HASH. -/

namespace Sys2Proof.Machine

/-! Little-endian strings (R11). -/

@[simp] theorem le_length (v k : Nat) : (le v k).length = k := by
  induction k generalizing v with
  | zero => rfl
  | succ k ih => rw [le, List.length_cons, ih]

@[simp] theorem HashBWords.digest_length (h : HashBWords) : h.digest.length = 20 := by
  simp only [digest, List.length_append, le_length]

@[simp] theorem hashB_length (m : Bytes) : (hashB m).length = 20 :=
  HashBWords.digest_length _

/-- HB.HASH with both stages answering. -/
theorem exec_hbHash_of_le {s : State} (inputFits : s.ilen.toNat ≤ s.sizes.ibuf)
    (digestFits : (hashB s.input).length ≤ s.sizes.obuf) :
    exec .hbHash s = .next (s.putOutput (hashB s.input)).completeOk :=
  (State.finish_stage_ok s (State.checkedInput_of_le inputFits) _).trans
    (congrArg s.finish (State.out_of_le digestFits))

/-- Settles O49: 20 bytes fit in any legal `OBUF` (R7). -/
theorem hbHashWritesTheDigest : Obligations.HbHashWritesTheDigest := by
  intro s legal inputFits
  obtain ⟨-, -, large, -⟩ := legal
  have length : (hashB s.input).length = 20 := hashB_length s.input
  exact ⟨_, exec_hbHash_of_le inputFits (by omega), s.outputOnly_putOutput (hashB s.input), length⟩

end Sys2Proof.Machine
end

section
/-! Big-endian strings and the integers they write (R11): `be` and `intBe` undo each other, and `minbe` is the one string
of its integer that does not start with a zero byte. -/

namespace Sys2Proof.Machine

/-! A string and its last byte. -/

theorem intBe_append_singleton (b : Bytes) (x : Byte) : intBe (b ++ [x]) = intBe b * 256 + x.toNat := by
  rw [intBe, List.foldl_append, intBe, List.foldl_cons, List.foldl_nil]

theorem intBe_cons (x : Byte) (b : Bytes) : intBe (x :: b) = x.toNat * 256 ^ b.length + intBe b := by
  induction b using List.reverseRecOn with
  | nil => simp [intBe]
  | append_singleton b y ih =>
    rw [← List.cons_append, intBe_append_singleton, intBe_append_singleton, ih, List.length_append,
      List.length_singleton, pow_succ]
    ring

theorem be_succ_eq_append (v k : Nat) : be v (k + 1) = be (v / 256) k ++ [BitVec.ofNat 8 v] := by
  induction k with
  | zero => simp [be]
  | succ k ih =>
    have leading : v / 2 ^ (8 * (k + 1)) = v / 256 / 2 ^ (8 * k) := by
      rw [Nat.div_div_eq_div_mul, Nat.mul_succ, pow_add, Nat.mul_comm 256]
      rfl
    rw [be, ih, be, leading, List.cons_append]

theorem intBe_lt (b : Bytes) : intBe b < 256 ^ b.length := by
  induction b using List.reverseRecOn with
  | nil => decide
  | append_singleton b x ih =>
    have byte : x.toNat < 256 := x.isLt
    rw [intBe_append_singleton, List.length_append, List.length_singleton, pow_succ]
    omega

theorem intBe_be {v k : Nat} (below : v < 256 ^ k) : intBe (be v k) = v := by
  induction k generalizing v with
  | zero =>
    obtain rfl : v = 0 := by simpa using below
    rfl
  | succ k ih =>
    have quotient : v / 256 < 256 ^ k := Nat.div_lt_of_lt_mul (by rwa [← pow_succ'])
    rw [be_succ_eq_append, intBe_append_singleton, ih quotient, BitVec.toNat_ofNat]
    exact Nat.div_add_mod' v 256

theorem be_intBe (b : Bytes) : be (intBe b) b.length = b := by
  induction b using List.reverseRecOn with
  | nil => rfl
  | append_singleton b x ih =>
    have byte : x.toNat < 256 := x.isLt
    have quotient : (intBe b * 256 + x.toNat) / 256 = intBe b := by omega
    have lowest : BitVec.ofNat 8 (intBe b * 256 + x.toNat) = x :=
      BitVec.eq_of_toNat_eq (by rw [BitVec.toNat_ofNat]; omega)
    rw [intBe_append_singleton, List.length_append, List.length_singleton, be_succ_eq_append, quotient, lowest, ih]

/-! Leading zero bytes. -/

theorem intBe_replicate_zero_append (n : Nat) (b : Bytes) : intBe (List.replicate n 0x00 ++ b) = intBe b := by
  induction n with
  | zero => rfl
  | succ n ih => exact ih

/-- The least length that holds `v` (R11). -/
theorem byteLength_le_iff {v k : Nat} : byteLength v ≤ k ↔ v < 256 ^ k := by
  have power : 256 ^ k = 2 ^ (8 * k) := (pow_mul 2 8 k).symm
  by_cases zero : v = 0
  · simp [zero, byteLength]
  · rw [byteLength, if_neg zero, power, ← Nat.log2_lt zero]
    omega

/-- A string that does not start with a zero byte is as short as its integer allows. -/
theorem byteLength_intBe {b : Bytes} (head : b.head? ≠ some 0x00) : byteLength (intBe b) = b.length := by
  refine le_antisymm (byteLength_le_iff.mpr (intBe_lt b)) ?_
  cases b with
  | nil => exact Nat.zero_le _
  | cons x b =>
    have nonzero : x.toNat ≠ 0 := fun zero => head (congrArg some (BitVec.eq_of_toNat_eq zero))
    have large : 256 ^ b.length ≤ intBe (x :: b) := by
      rw [intBe_cons]
      exact le_add_right (Nat.le_mul_of_pos_left _ (Nat.pos_of_ne_zero nonzero))
    have long : ¬ byteLength (intBe (x :: b)) ≤ b.length := fun le => absurd large (byteLength_le_iff.mp le).not_ge
    rw [List.length_cons]
    omega

theorem minbe_intBe {b : Bytes} (head : b.head? ≠ some 0x00) : minbe (intBe b) = b := by
  rw [minbe, byteLength_intBe head, be_intBe]

theorem intBe_minbe (v : Nat) : intBe (minbe v) = v :=
  intBe_be (byteLength_le_iff.mp le_rfl)

/-- A string longer than needed would start with zero bytes. -/
theorem minbe_head (v : Nat) : (minbe v).head? ≠ some 0x00 := by
  intro head
  obtain ⟨b, starts⟩ := List.head?_eq_some_iff.mp head
  have value : v = intBe b := by rw [← intBe_minbe v, starts]; rfl
  have shorter : byteLength v ≤ b.length := byteLength_le_iff.mpr (value ▸ intBe_lt b)
  have length : byteLength v = b.length + 1 := by
    rw [← List.length_cons (a := 0x00), ← starts, minbe, be_length]
  omega

end Sys2Proof.Machine
end

section
/-! Base58 (R190 to R192, R196): the symbols, the loops of the two functions, and that the functions undo each other. -/

namespace Sys2Proof.Machine

/-! The alphabet (R190). -/

theorem symbolIndex_symbol {i : Nat} (digit : i < 58) : symbolIndex (symbol i) = some i := by
  revert i
  decide

theorem symbol_of_symbolIndex {ch : Byte} {i : Nat} (found : symbolIndex ch = some i) : i < 58 ∧ symbol i = ch := by
  obtain ⟨lt, eq, -⟩ := List.findIdx?_eq_some_iff_getElem.mp found
  exact ⟨lt, (List.getD_eq_getElem _ _ lt).trans (beq_iff_eq.mp eq)⟩

theorem symbolIndex_eq_none_iff {ch : Byte} : symbolIndex ch = none ↔ ch ∉ alphabet := by
  simp only [symbolIndex, List.findIdx?_eq_none_iff, beq_eq_false_iff_ne]
  exact ⟨fun other mem => other ch mem rfl, fun absent a mem eq => absent (eq ▸ mem)⟩

theorem exists_symbolIndex {ch : Byte} (mem : ch ∈ alphabet) : ∃ i, symbolIndex ch = some i :=
  Option.ne_none_iff_exists'.mp fun none => symbolIndex_eq_none_iff.mp none mem

/-- The symbol `'1'` is that of 0 only. -/
theorem symbol_ne_one {i : Nat} (digit : i < 58) (nonzero : i ≠ 0) : symbol i ≠ 0x31 := by
  intro one
  have index : symbolIndex 0x31 = some i := one ▸ symbolIndex_symbol digit
  exact nonzero (Option.some.inj (index.symm.trans (symbolIndex_symbol (i := 0) (by decide))))

/-! The leading bytes that R191 and R192 count. -/

/-- A string is its leading bytes `ch` and a rest that does not start with `ch`. -/
theorem exists_eq_leading_append (ch : Byte) (b : Bytes) :
    ∃ rest, b = List.replicate (leadingCount ch b) ch ++ rest ∧ rest.head? ≠ some ch := by
  induction b with
  | nil => exact ⟨[], rfl, nofun⟩
  | cons x b ih =>
    by_cases leading : x = ch
    · obtain ⟨rest, split, head⟩ := ih
      refine ⟨rest, ?_, head⟩
      rw [leadingCount, if_pos leading, List.replicate_succ, List.cons_append, ← split, leading]
    · refine ⟨x :: b, ?_, fun head => leading (Option.some.inj head)⟩
      rw [leadingCount, if_neg leading, List.replicate_zero, List.nil_append]

theorem leadingCount_of_head {ch : Byte} {b : Bytes} (head : b.head? ≠ some ch) : leadingCount ch b = 0 := by
  cases b with
  | nil => rfl
  | cons x b => exact if_neg fun leading => head (congrArg some leading)

theorem leadingCount_replicate_append {ch : Byte} {rest : Bytes} (head : rest.head? ≠ some ch) (n : Nat) :
    leadingCount ch (List.replicate n ch ++ rest) = n := by
  induction n with
  | zero => exact leadingCount_of_head head
  | succ n ih => rw [List.replicate_succ, List.cons_append, leadingCount, if_pos rfl, ih]

/-! The loop of R191. -/

@[simp] theorem digitLoop_of_zero (fuel : Nat) (digits : Bytes) : digitLoop fuel 0 digits = digits := by
  cases fuel <;> rfl

theorem digitLoop_succ {v : Nat} (nonzero : v ≠ 0) (fuel : Nat) (digits : Bytes) :
    digitLoop (fuel + 1) v digits = digitLoop fuel (v / 58) (symbol (v % 58) :: digits) :=
  if_neg nonzero

theorem div_58_lt {v fuel : Nat} (below : v < 58 ^ (fuel + 1)) : v / 58 < 58 ^ fuel :=
  Nat.div_lt_of_lt_mul (by rwa [← pow_succ'])

/-- `k` digits are enough for a value below `58 ^ k`. -/
theorem digitLoop_length_le {v k : Nat} (below : v < 58 ^ k) (fuel : Nat) (digits : Bytes) :
    (digitLoop fuel v digits).length ≤ k + digits.length := by
  induction k generalizing fuel v digits with
  | zero =>
    obtain rfl : v = 0 := by simpa using below
    simp
  | succ k ih =>
    by_cases zero : v = 0
    · simp [zero]
    cases fuel with
    | zero => simp [digitLoop]
    | succ fuel =>
      rw [digitLoop_succ zero]
      exact (ih (div_58_lt below) fuel _).trans (by rw [List.length_cons]; omega)

/-- The most significant symbol is not `'1'`. -/
theorem digitLoop_head {v fuel : Nat} (below : v < 58 ^ fuel) (nonzero : v ≠ 0) (digits : Bytes) :
    (digitLoop fuel v digits).head? ≠ some 0x31 := by
  induction fuel generalizing v digits with
  | zero => exact absurd (by simpa using below) nonzero
  | succ fuel ih =>
    rw [digitLoop_succ nonzero]
    by_cases last : v / 58 = 0
    · rw [last, digitLoop_of_zero]
      exact fun one => symbol_ne_one (Nat.mod_lt v (by decide)) (by omega) (Option.some.inj one)
    · exact ih (div_58_lt below) last _

theorem digitLoop_nil_head {v fuel : Nat} (below : v < 58 ^ fuel) : (digitLoop fuel v []).head? ≠ some 0x31 := by
  by_cases zero : v = 0
  · simp [zero]
  · exact digitLoop_head below zero []

/-- More turns than enough change nothing (log 13). -/
theorem digitLoop_fuel {v fuel : Nat} (below : v < 58 ^ fuel) (digits : Bytes) :
    digitLoop (fuel + 1) v digits = digitLoop fuel v digits := by
  induction fuel generalizing v digits with
  | zero =>
    obtain rfl : v = 0 := by simpa using below
    simp
  | succ fuel ih =>
    by_cases zero : v = 0
    · simp [zero]
    · rw [digitLoop_succ zero, ih (div_58_lt below), ← digitLoop_succ zero]

/-! The loop of R192. -/

theorem decodeLoop_cons_of_some {ch : Byte} {i : Nat} (found : symbolIndex ch = some i) (v : Nat) (rest : Bytes) :
    decodeLoop v (ch :: rest) = decodeLoop (v * 58 + i) rest := by
  rw [decodeLoop, found]

theorem decodeLoop_cons_eq_ok {ch : Byte} {v w : Nat} {rest : Bytes} (value : decodeLoop v (ch :: rest) = .ok w) :
    ∃ i < 58, symbol i = ch ∧ decodeLoop (v * 58 + i) rest = .ok w := by
  cases index : symbolIndex ch with
  | none =>
    rw [decodeLoop, index] at value
    cases value
  | some i =>
    obtain ⟨digit, eq⟩ := symbol_of_symbolIndex index
    exact ⟨i, digit, eq, (decodeLoop_cons_of_some index v rest).symm.trans value⟩

theorem le_of_decodeLoop {text : Bytes} {v w : Nat} (value : decodeLoop v text = .ok w) : v ≤ w := by
  induction text generalizing v with
  | nil => exact (Except.ok.inj value).le
  | cons ch rest ih =>
    obtain ⟨i, -, -, value⟩ := decodeLoop_cons_eq_ok value
    exact le_trans (by omega) (ih value)

/-- A character outside the alphabet is the one error (R192). -/
theorem decodeLoop_of_not_mem {text : Bytes} (outside : ∃ ch ∈ text, ch ∉ alphabet) (v : Nat) :
    decodeLoop v text = .error .invalidAlphabetCharacter := by
  induction text generalizing v with
  | nil => simp at outside
  | cons ch rest ih =>
    cases index : symbolIndex ch with
    | none => rw [decodeLoop, index]
    | some i =>
      obtain ⟨c, mem, absent⟩ := outside
      obtain rfl | mem := List.mem_cons.mp mem
      · rw [symbolIndex_eq_none_iff.mpr absent] at index
        cases index
      · rw [decodeLoop_cons_of_some index, ih ⟨c, mem, absent⟩]

/-- A text over the alphabet has a value, which each character multiplies by at most 58. -/
theorem decodeLoop_of_mem {text : Bytes} (inside : ∀ ch ∈ text, ch ∈ alphabet) (v : Nat) :
    ∃ w, decodeLoop v text = .ok w ∧ w < (v + 1) * 58 ^ text.length := by
  induction text generalizing v with
  | nil => exact ⟨v, rfl, by simp⟩
  | cons ch rest ih =>
    obtain ⟨mem, inside⟩ := List.forall_mem_cons.mp inside
    obtain ⟨i, index⟩ := exists_symbolIndex mem
    obtain ⟨w, value, below⟩ := ih inside (v * 58 + i)
    refine ⟨w, (decodeLoop_cons_of_some index v rest).trans value, below.trans_le ?_⟩
    have digit := (symbol_of_symbolIndex index).1
    calc (v * 58 + i + 1) * 58 ^ rest.length
      _ ≤ ((v + 1) * 58) * 58 ^ rest.length := Nat.mul_le_mul_right _ (by omega)
      _ = (v + 1) * 58 ^ (rest.length + 1) := by rw [pow_succ', mul_assoc]

theorem decodeLoop_replicate_one_append (n : Nat) (text : Bytes) :
    decodeLoop 0 (List.replicate n 0x31 ++ text) = decodeLoop 0 text := by
  induction n with
  | zero => rfl
  | succ n ih =>
    have index : symbolIndex 0x31 = some 0 := symbolIndex_symbol (i := 0) (by decide)
    rw [List.replicate_succ, List.cons_append, decodeLoop_cons_of_some index, ih]

/-! Each loop undoes the other. -/

/-- Reading the digits of `v` gives `v`, with which the rest of the text is read on. -/
theorem decodeLoop_digitLoop {v fuel : Nat} (below : v < 58 ^ fuel) (digits : Bytes) :
    decodeLoop 0 (digitLoop fuel v digits) = decodeLoop v digits := by
  induction fuel generalizing v digits with
  | zero =>
    obtain rfl : v = 0 := by simpa using below
    rfl
  | succ fuel ih =>
    by_cases zero : v = 0
    · simp [zero]
    · rw [digitLoop_succ zero, ih (div_58_lt below),
        decodeLoop_cons_of_some (symbolIndex_symbol (Nat.mod_lt v (by decide))), Nat.div_add_mod']

/-- The digits of the value read are those of the value before the text, then the text, unless it starts with a
superfluous `'1'`. -/
theorem digitLoop_of_decodeLoop {text : Bytes} {v w fuel : Nat} (value : decodeLoop v text = .ok w)
    (below : w < 58 ^ fuel) (head : v = 0 → text.head? ≠ some 0x31) (digits : Bytes) :
    digitLoop fuel w digits = digitLoop fuel v (text ++ digits) := by
  induction text generalizing v with
  | nil =>
    obtain rfl : v = w := Except.ok.inj value
    rfl
  | cons ch rest ih =>
    obtain ⟨i, digit, rfl, onward⟩ := decodeLoop_cons_eq_ok value
    have nonzero : v * 58 + i ≠ 0 := by
      intro zero
      obtain ⟨rfl, rfl⟩ : v = 0 ∧ i = 0 := by omega
      exact head rfl rfl
    have le := le_of_decodeLoop onward
    rw [ih onward fun zero => absurd zero nonzero]
    cases fuel with
    | zero => omega
    | succ fuel =>
      have quotient : (v * 58 + i) / 58 = v := by omega
      have remainder : (v * 58 + i) % 58 = i := by omega
      have enough : v < 58 ^ fuel := quotient ▸ div_58_lt (le.trans_lt below)
      rw [digitLoop_succ nonzero, quotient, remainder, digitLoop_fuel enough, List.cons_append]

/-! The functions of R191 and R192. -/

theorem b58decode_of_ok {text : Bytes} {v : Nat} (value : decodeLoop 0 text = .ok v) :
    b58decode text = .ok (List.replicate (leadingCount 0x31 text) 0x00 ++ minbe v) := by
  rw [b58decode, stage_as_match, value]

theorem b58decode_of_not_mem {text : Bytes} (outside : ∃ ch ∈ text, ch ∉ alphabet) :
    b58decode text = .error .invalidAlphabetCharacter := by
  rw [b58decode, stage_as_match, decodeLoop_of_not_mem outside]

/-- The turns given to the loop of R191 are enough (log 13). -/
theorem lt_58_pow_of_lt_256_pow {v n : Nat} (below : v < 256 ^ n) : v < 58 ^ (2 * n) :=
  calc v
    _ < 256 ^ n := below
    _ ≤ (58 ^ 2) ^ n := Nat.pow_le_pow_left (by decide) n
    _ = 58 ^ (2 * n) := (pow_mul 58 2 n).symm

/-- At most `n` bytes without a leading zero are at most `k` symbols where `k` digits are enough for them. -/
theorem b58encode_length_le {b : Bytes} {n k : Nat} (head : b.head? ≠ some 0x00) (length : b.length ≤ n)
    (enough : 256 ^ n ≤ 58 ^ k) : (b58encode b).length ≤ k := by
  have below : intBe b < 58 ^ k :=
    calc intBe b
      _ < 256 ^ b.length := intBe_lt b
      _ ≤ 256 ^ n := Nat.pow_le_pow_right (by decide) length
      _ ≤ 58 ^ k := enough
  rw [b58encode, leadingCount_of_head head, List.replicate_zero, List.nil_append]
  exact digitLoop_length_le below _ []

/-- Settles O52: the leading zeros are counted back, and the rest is the shortest string of the value, which the digits
give back. -/
theorem base58DecodesItsEncoding : Obligations.Base58DecodesItsEncoding := by
  intro b
  obtain ⟨rest, split, head⟩ := exists_eq_leading_append 0x00 b
  have enough : intBe b < 58 ^ (2 * b.length) := lt_58_pow_of_lt_256_pow (intBe_lt b)
  have value : decodeLoop 0 (b58encode b) = .ok (intBe b) := by
    rw [b58encode, decodeLoop_replicate_one_append, decodeLoop_digitLoop enough, decodeLoop]
  have shortest : minbe (intBe b) = rest := by
    rw [split, intBe_replicate_zero_append, minbe_intBe head]
  rw [b58decode_of_ok value, shortest, b58encode, leadingCount_replicate_append (digitLoop_nil_head enough), ← split]

/-- Settles O53: the leading `'1'`s are counted back, and the rest is the digits of its value. -/
theorem base58EncodesItsDecoding : Obligations.Base58EncodesItsDecoding := by
  intro text inside
  obtain ⟨v, value, -⟩ := decodeLoop_of_mem inside 0
  refine ⟨_, b58decode_of_ok value, ?_⟩
  obtain ⟨rest, split, head⟩ := exists_eq_leading_append 0x31 text
  generalize leadingCount 0x31 text = n at split ⊢
  subst split
  rw [decodeLoop_replicate_one_append] at value
  have intBe_bytes : intBe (List.replicate n 0x00 ++ minbe v) = v := by
    rw [intBe_replicate_zero_append, intBe_minbe]
  have enough : v < 58 ^ (2 * (List.replicate n 0x00 ++ minbe v).length) :=
    lt_58_pow_of_lt_256_pow (lt_of_eq_of_lt intBe_bytes.symm (intBe_lt _))
  rw [b58encode, leadingCount_replicate_append (minbe_head v), intBe_bytes,
    digitLoop_of_decodeLoop value enough (fun _ => head), digitLoop_of_zero, List.append_nil]

end Sys2Proof.Machine
end

section
/-! The commands B58ENC, B58DEC, B58CENC and B58CDEC (R193, R194, R197, R198). -/

namespace Sys2Proof.Machine

/-! Base58Check (R195). -/

@[simp] theorem hashA_length (m : Bytes) : (hashA m).length = 32 :=
  HashAWords.digest_length _

@[simp] theorem checksum_length (payload : Bytes) : (checksum payload).length = 4 := by
  rw [checksum, List.length_take, hashA_length]
  rfl

section

variable {least : Nat} {text payload ck raw : Bytes}

theorem payloadOf_append (length : ck.length = 4) : payloadOf (payload ++ ck) = payload := by
  rw [payloadOf, List.length_append, length, Nat.add_sub_cancel, List.take_left]

theorem checksumOf_append (length : ck.length = 4) : checksumOf (payload ++ ck) = ck := by
  rw [checksumOf, List.length_append, length, Nat.add_sub_cancel, List.drop_left]

theorem b58checkDecode_of_not_mem (outside : ∃ ch ∈ text, ch ∉ alphabet) :
    b58checkDecode least text = .error .invalidAlphabetCharacter := by
  rw [b58checkDecode, stage_as_match, b58decode_of_not_mem outside]

theorem b58checkDecode_of_short (decodes : b58decode text = .ok raw) (short : raw.length < least) :
    b58checkDecode least text = .error .invalidKeyEncoding := by
  rw [b58checkDecode, stage_as_match, decodes]
  exact if_pos short

theorem b58checkDecode_of_append (decodes : b58decode text = .ok (payload ++ ck)) (length : ck.length = 4)
    (long : least ≤ payload.length + 4) :
    b58checkDecode least text = if checksum payload ≠ ck then .error .invalidChecksum else .ok payload := by
  have notShort : ¬ (payload ++ ck).length < least := by rw [List.length_append, length]; omega
  rw [b58checkDecode, stage_as_match, decodes]
  refine (if_neg notShort).trans ?_
  rw [payloadOf_append length, checksumOf_append length]

/-- Base58Check decoding of an encoding gives the payload back (R196). -/
theorem b58checkDecode_b58checkEncode (long : least ≤ payload.length + 4) :
    b58checkDecode least (b58checkEncode payload) = .ok payload := by
  rw [b58checkEncode, b58checkDecode_of_append (base58DecodesItsEncoding _) (checksum_length payload) long]
  exact if_neg (not_not.mpr rfl)

end

/-- Decoding does not lengthen a text. -/
theorem exists_b58decode_of_mem {text : Bytes} (inside : ∀ ch ∈ text, ch ∈ alphabet) :
    ∃ raw, b58decode text = .ok raw ∧ raw.length ≤ text.length := by
  obtain ⟨v, value, -⟩ := decodeLoop_of_mem inside 0
  refine ⟨_, b58decode_of_ok value, ?_⟩
  obtain ⟨rest, split, -⟩ := exists_eq_leading_append 0x31 text
  generalize leadingCount 0x31 text = n at split ⊢
  subst split
  obtain ⟨-, inside⟩ := List.forall_mem_append.mp inside
  obtain ⟨w, value', below⟩ := decodeLoop_of_mem inside 0
  rw [decodeLoop_replicate_one_append, value'] at value
  obtain rfl := Except.ok.inj value
  have bytes : w < 256 ^ rest.length := by
    rw [Nat.zero_add, Nat.one_mul] at below
    exact below.trans_le (Nat.pow_le_pow_left (by decide) _)
  have short : byteLength w ≤ rest.length := byteLength_le_iff.mpr bytes
  rw [minbe, List.length_append, List.length_append, List.length_replicate, List.length_replicate, be_length]
  omega

/-! A command whose last stage is `out`. -/

section

variable {s : State} {b : Bytes}

theorem State.finish_out_of_le (fits : b.length ≤ s.sizes.obuf) :
    ∃ t, s.finish (s.out b) = .next t ∧ OutputOnly s t b :=
  ⟨_, congrArg s.finish (State.out_of_le fits), s.outputOnly_putOutput b⟩

/-- A string longer than `OBUF` ends in `BufferOverflow`, code 9 (R234, R231). -/
theorem State.finish_out_of_gt (overflows : s.sizes.obuf < b.length) :
    ∃ t, s.finish (s.out b) = .next t ∧ FailedWith s t 9 :=
  ⟨_, congrArg s.finish (State.out_of_gt overflows), s.failedWith_abort .bufferOverflow⟩

end

/-! The stages before the output. -/

section

variable {s : State} {b : Bytes} {e : CommandError} (inputFits : s.ilen.toNat ≤ s.sizes.ibuf)

include inputFits

theorem exec_b58enc_of_le : exec .b58enc s = s.finish (s.out (b58encode s.input)) :=
  State.finish_stage_ok s (State.checkedInput_of_le inputFits) _

theorem exec_b58cenc_of_le : exec .b58cenc s = s.finish (s.out (b58checkEncode s.input)) :=
  State.finish_stage_ok s (State.checkedInput_of_le inputFits) _

theorem exec_b58dec_of_ok (decodes : b58decode s.input = .ok b) : exec .b58dec s = s.finish (s.out b) :=
  (State.finish_stage_ok s (State.checkedInput_of_le inputFits) _).trans (State.finish_stage_ok s decodes _)

theorem exec_b58dec_of_error (raises : b58decode s.input = .error e) : exec .b58dec s = .next (s.abort e) :=
  (State.finish_stage_ok s (State.checkedInput_of_le inputFits) _).trans (State.finish_stage_error s raises _)

theorem exec_b58cdec_of_ok (decodes : b58checkDecode 4 s.input = .ok b) : exec .b58cdec s = s.finish (s.out b) :=
  (State.finish_stage_ok s (State.checkedInput_of_le inputFits) _).trans (State.finish_stage_ok s decodes _)

theorem exec_b58cdec_of_error (raises : b58checkDecode 4 s.input = .error e) :
    exec .b58cdec s = .next (s.abort e) :=
  (State.finish_stage_ok s (State.checkedInput_of_le inputFits) _).trans (State.finish_stage_error s raises _)

end

/-- Settles O54: after the input is read, both commands end as `out` does. -/
theorem encodersWriteTheirText : Obligations.EncodersWriteTheirText := by
  intro s inputFits
  rw [exec_b58enc_of_le inputFits, exec_b58cenc_of_le inputFits]
  refine ⟨State.finish_out_of_le, State.finish_out_of_gt, ?_⟩
  rintro _ rfl
  exact ⟨State.finish_out_of_le, State.finish_out_of_gt⟩

/-- Settles O55: the stage of each command that raises, and else the end of `out`; decoding does not lengthen the
input, which fits in `IBUF`. -/
theorem decodersWriteTheirBytes : Obligations.DecodersWriteTheirBytes := by
  refine fun s inputFits => ⟨fun outside => ?_, fun inside => ?_⟩
  · have failed : FailedWith s (s.abort .invalidAlphabetCharacter) 4 := s.failedWith_abort .invalidAlphabetCharacter
    exact ⟨⟨_, exec_b58dec_of_error inputFits (b58decode_of_not_mem outside), failed⟩,
      _, exec_b58cdec_of_error inputFits (b58checkDecode_of_not_mem outside), failed⟩
  obtain ⟨raw, decodes, le⟩ := exists_b58decode_of_mem inside
  rw [s.input_length] at le
  rw [exec_b58dec_of_ok inputFits decodes]
  refine ⟨raw, decodes, by omega, State.finish_out_of_le, State.finish_out_of_gt, fun short => ?_, ?_⟩
  · exact ⟨_, exec_b58cdec_of_error inputFits (b58checkDecode_of_short decodes short),
      s.failedWith_abort .invalidKeyEncoding⟩
  rintro - payload ck rfl length
  have checked := b58checkDecode_of_append decodes length (Nat.le_add_left 4 _)
  refine ⟨fun wrong => ?_, fun right => ?_⟩
  · exact ⟨_, exec_b58cdec_of_error inputFits (checked.trans (if_pos wrong)), s.failedWith_abort .invalidChecksum⟩
  · rw [exec_b58cdec_of_ok inputFits (checked.trans (if_neg (not_not.mpr right)))]
    exact ⟨State.finish_out_of_le, State.finish_out_of_gt⟩

end Sys2Proof.Machine
end

section
/-! WIF (R214 to R216): WIFDEC reads what WIFENC writes. -/

namespace Sys2Proof.Machine

section

variable (k : Scalar) (c t : Bool)

/-- The marker is stripped where it was put (R214, R215). -/
theorem stripMarker_append {key : Bytes} (length : key.length = 32) :
    stripMarker (key ++ if c then [0x01] else []) = (key, c) := by
  cases c with
  | false =>
    rw [stripMarker, if_neg (fun marked => by simp [length] at marked)]
    simp
  | true =>
    have marked : (key ++ [0x01]).getD 32 0 = (0x01 : Byte) := by simp [length]
    rw [stripMarker, if_pos rfl, if_pos ⟨by simp [length], marked⟩, List.take_append_of_le_length length.ge,
      List.take_of_length_le length.le]

theorem wifParts_wifPayload : wifParts (wifPayload k c t) = .ok (k, c, if t then 0xEF else 0x80) := by
  have below : k.toNat < 256 ^ 32 := k.isLt
  have stripped : stripMarker ((wifPayload k c t).drop 1) = (be k.toNat 32, c) :=
    stripMarker_append c (be_length k.toNat 32)
  simp only [wifParts, stripped, be_length, ne_eq, not_true_eq_false, if_false, intBe_be below, BitVec.ofNat_toNat,
    BitVec.setWidth_eq]
  rfl

theorem wifPayload_length_bounds : 33 ≤ (wifPayload k c t).length ∧ (wifPayload k c t).length ≤ 34 := by
  cases c <;> simp [wifPayload]

/-- The version byte is not zero, so no `'1'` leads, and 38 bytes are at most 52 symbols. -/
theorem wifText_length_le : (b58checkEncode (wifPayload k c t)).length ≤ 52 := by
  have head : (wifPayload k c t ++ checksum (wifPayload k c t)).head? ≠ some 0x00 := by
    cases t <;> simp [wifPayload]
  have length : (wifPayload k c t ++ checksum (wifPayload k c t)).length ≤ 38 := by
    have := (wifPayload_length_bounds k c t).2
    rw [List.length_append, checksum_length]
    omega
  exact b58encode_length_le head length (by norm_num)

end

theorem exec_wifenc_of_legal {s : State} (legal : s.sizes.Legal) (ra : RegIndex) (c n : Bool) :
    exec (.wifenc ra c n) s = .next (s.putOutput (b58checkEncode (wifPayload (s.scalar ra) c n))).completeOk := by
  obtain ⟨-, -, large, -⟩ := legal
  have length := wifText_length_le (s.scalar ra) c n
  exact congrArg s.finish (State.out_of_le (by omega))

/-- A string of `OLEN` bytes reads back through `OLEN`, which has 9 bits (R29). -/
theorem State.memRead_olen_putOutput (s : State) {b : Bytes} (short : b.length < 2 ^ 9) :
    (s.putOutput b).memRead .obuf (s.putOutput b).olen.toNat = b := by
  have length : (s.putOutput b).olen.toNat = b.length := by
    rw [State.putOutput, BitVec.toNat_ofNat, Nat.mod_eq_of_lt short]
  rw [length, State.memRead_putOutput]

theorem exec_wifdec_of_wifText {u : State} {k : Scalar} {c n : Bool} (inputFits : u.ilen.toNat ≤ u.sizes.ibuf)
    (text : u.input = b58checkEncode (wifPayload k c n)) (rd : RegIndex) :
    exec (.wifdec rd) u =
      .next ((u.setScalar rd k).setFlagsWif c (if n then 0xEF else 0x80)).completeOk := by
  have verified : b58checkDecode 5 u.input = .ok (wifPayload k c n) := by
    have := (wifPayload_length_bounds k c n).1
    rw [text, b58checkDecode_b58checkEncode (by omega)]
  exact (State.finish_stage_ok u (State.checkedInput_of_le inputFits) _).trans
    ((State.finish_stage_ok u verified _).trans (State.finish_stage_ok u (wifParts_wifPayload k c n) _))

/-- Settles O60: WIFENC leaves the text of the payload in `OBUF`, and WIFDEC of that text gives the payload's parts. -/
theorem wifRoundTrip : Obligations.WifRoundTrip := by
  intro ra rd c n s t u legal ends input inputFits
  rw [exec_wifenc_of_legal legal] at ends
  obtain rfl := Host.Outcome.next.inj ends
  have short := wifText_length_le (s.scalar ra) c n
  have text : u.input = b58checkEncode (wifPayload (s.scalar ra) c n) :=
    input.trans (s.memRead_olen_putOutput (by omega))
  exact exec_wifdec_of_wifText inputFits text rd

end Sys2Proof.Machine
end

section
/-! DERIVEPUB (R212). The generator has order `n` in the curve's group, so the multiple of it by a valid key is a point
of the curve other than `INF`. -/

namespace Sys2Proof.Machine

/-! The order of the generator (R30). -/

theorem generator_ofCurve : generator.OfCurve := by
  obtain ⟨-, range⟩ := pldgLoadsTheGenerator
  exact range

/-- The 256 iterations of R126 for the scalar `n`, evaluated: the only fact on the order of `G` that is computed. -/
theorem scalarMultiply_groupOrder_generator :
    scalarMultiply (BitVec.ofNat 256 groupOrder) generator = .ok .inf := by decide +kernel

section

variable [Fact fieldPrime.Prime] {X : secp256k1.Point}

/-- `n` is prime, `n·G` is the identity and `G` is not. -/
theorem addOrderOf_of_generator_denotes (hX : generator.Denotes X) : addOrderOf X = groupOrder := by
  have : Fact groupOrder.Prime := ⟨Laws.groupOrder_prime⟩
  refine addOrderOf_eq_prime ?_ ?_
  · obtain ⟨R, multiple, hR⟩ := scalarMultiply_denotes (BitVec.ofNat 256 groupOrder) hX
    obtain rfl := Except.ok.inj (scalarMultiply_groupOrder_generator.symm.trans multiple)
    exact hR
  · rintro rfl
    obtain ⟨-, -, nonsingular, affine⟩ := hX
    cases affine

end

/-! Valid keys (R131) and their public keys. -/

theorem isValidPrivateKey_iff (k : Scalar) : isValidPrivateKey k = true ↔ 1 ≤ k.toNat ∧ k.toNat < groupOrder := by
  have pos : 0 < groupOrder := by decide
  rw [isValidPrivateKey, decide_eq_true_iff, Nat.le_sub_one_iff_lt pos]

/-- A valid key is no multiple of the order of `G`. -/
theorem exists_publicKey {k : Scalar} (valid : isValidPrivateKey k = true) :
    ∃ x y, scalarMultiply k generator = .ok (.aff x y) ∧ Point.OfCurve (.aff x y) := by
  have : Fact fieldPrime.Prime := ⟨Laws.fieldPrime_prime⟩
  obtain ⟨pos, below⟩ := (isValidPrivateKey_iff k).mp valid
  obtain ⟨X, hX⟩ := generator.ofCurve_iff_denotes.mp generator_ofCurve
  obtain ⟨R, multiple, hR⟩ := scalarMultiply_denotes k hX
  cases R with
  | aff x y => exact ⟨x, y, multiple, (Point.ofCurve_iff_denotes _).mpr ⟨_, hR⟩⟩
  | inf =>
    have divides : groupOrder ∣ k.toNat := by
      rw [← addOrderOf_of_generator_denotes hX]
      exact addOrderOf_dvd_of_nsmul_eq_zero hR
    exact absurd (Nat.le_of_dvd pos divides) below.not_ge

/-! The stages of DERIVEPUB. -/

theorem serialize_length_le (x y : Nat) (c : Bool) : (serialize x y c).length ≤ 65 := by
  cases c <;> simp [serialize]

section

variable {s : State} {rd ra : RegIndex} {c : Bool}

theorem exec_derivepub_of_invalid (invalid : isValidPrivateKey (s.scalar ra) = false) :
    exec (.derivepub rd ra c) s = .next (s.abort .invalidPrivateKey) :=
  State.finish_stage_error s (if_neg (by simp [invalid])) _

theorem exec_derivepub_of_valid {x y : Nat} (valid : isValidPrivateKey (s.scalar ra) = true)
    (multiple : scalarMultiply (s.scalar ra) generator = .ok (.aff x y)) (onCurve : isOnCurve (.aff x y) = true) :
    exec (.derivepub rd ra c) s = s.finish ((s.setPoint rd (.aff x y)).out (serialize x y c)) := by
  have required : requireOnCurve (.aff x y) = .ok (x, y) := if_pos onCurve
  exact (State.finish_stage_ok s (if_pos valid) _).trans
    ((State.finish_stage_ok s multiple _).trans (State.finish_stage_ok s required _))

end

/-- Settles O56: the one stage that can raise is the check of the key, since the public key is on the curve and its
serialisation fits in `OBUF`. -/
theorem derivepubWritesThePublicKey : Obligations.DerivepubWritesThePublicKey := by
  intro rd ra c s legal
  have valid_iff := isValidPrivateKey_iff (s.scalar ra)
  refine ⟨fun invalid => ?_, fun pos below => ?_⟩
  · have notValid : isValidPrivateKey (s.scalar ra) = false := by
      rw [← Bool.not_eq_true, valid_iff]
      exact fun range => invalid.elim (Nat.one_le_iff_ne_zero.mp range.1) range.2.not_ge
    exact ⟨_, exec_derivepub_of_invalid notValid, s.failedWith_abort .invalidPrivateKey⟩
  · have valid := valid_iff.mpr ⟨pos, below⟩
    obtain ⟨x, y, multiple, onCurve⟩ := exists_publicKey valid
    obtain ⟨-, -, equation⟩ := id onCurve
    obtain ⟨-, -, large, -⟩ := legal
    have fits := State.out_of_le (s := s.setPoint rd (.aff x y)) ((serialize_length_le x y c).trans large)
    have ends := (exec_derivepub_of_valid valid multiple equation).trans (congrArg s.finish fits)
    exact ⟨x, y, _, multiple, onCurve, ends, (s.setPoint rd (.aff x y)).outputOnly_putOutput _⟩

end Sys2Proof.Machine
end

section
/-! The address of a public key (R213): DERIVEADDR, and the length of a Base58 text with leading zeros. -/

namespace Sys2Proof.Machine

/-! Base58 of a string that starts with zero bytes (R191). -/

theorem leadingCount_add_length {ch : Byte} {b rest : Bytes}
    (split : b = List.replicate (leadingCount ch b) ch ++ rest) : leadingCount ch b + rest.length = b.length := by
  simpa using (congrArg List.length split).symm

theorem leadingCount_le_length (ch : Byte) (b : Bytes) : leadingCount ch b ≤ b.length := by
  obtain ⟨rest, split, -⟩ := exists_eq_leading_append ch b
  exact (Nat.le_add_right _ _).trans (leadingCount_add_length split).le

theorem leadingCount_cons_self (ch : Byte) (b : Bytes) : leadingCount ch (ch :: b) = leadingCount ch b + 1 :=
  if_pos rfl

/-- Each leading zero byte is one symbol, and the bytes after them are at most `k` symbols where `k` digits are
enough. -/
theorem b58encode_length_le_of_leading {b : Bytes} {k : Nat}
    (enough : 256 ^ (b.length - leadingCount 0x00 b) ≤ 58 ^ k) : (b58encode b).length ≤ leadingCount 0x00 b + k := by
  obtain ⟨rest, split, -⟩ := exists_eq_leading_append 0x00 b
  have lengths : b.length - leadingCount 0x00 b = rest.length := by
    rw [← leadingCount_add_length split, Nat.add_sub_cancel_left]
  have below : intBe b < 58 ^ k :=
    calc intBe b
      _ = intBe rest := by rw [split, intBe_replicate_zero_append]
      _ < 256 ^ rest.length := intBe_lt rest
      _ ≤ 58 ^ k := lengths ▸ enough
  rw [b58encode, List.length_append, List.length_replicate]
  exact Nat.add_le_add_left (digitLoop_length_le below _ []) _

theorem b58encode_head_of_zero (b : Bytes) : (b58encode (0x00 :: b)).head? = some 0x31 := by
  rw [b58encode, leadingCount_cons_self, List.replicate_succ, List.cons_append, List.head?_cons]

/-! The address. -/

/-- 25 bytes that start with a zero byte are at most 34 symbols: at most 24 bytes follow the zeros, and `m <= 24` bytes
need at most 9 symbols more than `m`. -/
theorem addressText_length_le (key : Bytes) : (b58checkEncode (0x00 :: hash160 key)).length ≤ 34 := by
  generalize bytes : 0x00 :: hash160 key ++ checksum (0x00 :: hash160 key) = b
  have length : b.length = 25 := by
    rw [← bytes, List.length_append, List.length_cons, hash160, hashB_length, checksum_length]
  have leading : 1 ≤ leadingCount 0x00 b := by
    rw [← bytes, List.cons_append, leadingCount_cons_self]
    omega
  have atMost := leadingCount_le_length 0x00 b
  have nineMore : ∀ m < 25, 256 ^ m ≤ 58 ^ (m + 9) := by decide
  have bound := b58encode_length_le_of_leading (nineMore (b.length - leadingCount 0x00 b) (by omega))
  rw [b58checkEncode, bytes]
  omega

theorem exec_deriveaddr_of_le {s : State} (inputFits : s.ilen.toNat ≤ s.sizes.ibuf) :
    exec .deriveaddr s = s.finish (s.out (b58checkEncode (0x00 :: hash160 s.input))) :=
  State.finish_stage_ok s (State.checkedInput_of_le inputFits) _

/-- Settles O57: after the input is read, the command ends as `out` does, with a text that fits in `OBUF`. -/
theorem deriveaddrWritesTheAddress : Obligations.DeriveaddrWritesTheAddress := by
  rintro s ⟨-, -, large, -⟩ inputFits _ _ rfl rfl
  have short := addressText_length_le s.input
  refine ⟨?_, short, b58encode_head_of_zero _⟩
  rw [exec_deriveaddr_of_le inputFits]
  exact State.finish_out_of_le (by omega)

end Sys2Proof.Machine
end

section
/-! The commands WIFENC and WIFDEC (R214, R215). -/

namespace Sys2Proof.Machine

/-- Settles O58: WIFENC has no stage that could raise, and its text fits in `OBUF`. -/
theorem wifencWritesTheText : Obligations.WifencWritesTheText := by
  rintro ra c t s legal _ _ rfl rfl
  exact ⟨⟨_, exec_wifenc_of_legal legal ra c t, s.outputOnly_putOutput _⟩, wifText_length_le (s.scalar ra) c t⟩

/-! The parts of a verified payload (R215). -/

theorem stripMarker_of_unmarked {key : Bytes} (unmarked : key.length ≠ 33 ∨ key.getLast? ≠ some 0x01) :
    stripMarker key = (key, false) := by
  refine if_neg fun ⟨length, marked⟩ => unmarked.elim (· length) fun last => last ?_
  rw [List.getD_eq_getElem _ _ (by omega)] at marked
  rw [List.getLast?_eq_getElem?, length, List.getElem?_eq_getElem (by omega), marked]

theorem wifParts_of_strip (version : Byte) {key stem : Bytes} {c : Bool} (stripped : stripMarker key = (stem, c)) :
    wifParts (version :: key) =
      if stem.length ≠ 32 then .error .invalidKeyEncoding else .ok (BitVec.ofNat 256 (intBe stem), c, version) := by
  rw [wifParts, List.drop_one, List.tail_cons, stripped]
  rfl

/-! The stages of WIFDEC. -/

section

variable {s : State} {rd : RegIndex} {payload : Bytes} {e : CommandError} (inputFits : s.ilen.toNat ≤ s.sizes.ibuf)

include inputFits

theorem exec_wifdec_of_unverified (raises : b58checkDecode 5 s.input = .error e) :
    exec (.wifdec rd) s = .next (s.abort e) :=
  (State.finish_stage_ok s (State.checkedInput_of_le inputFits) _).trans (State.finish_stage_error s raises _)

theorem exec_wifdec_of_verified (verified : b58checkDecode 5 s.input = .ok payload) :
    exec (.wifdec rd) s = s.finish (do
      let parts ← wifParts payload
      .ok ((s.setScalar rd parts.1).setFlagsWif parts.2.1 parts.2.2)) :=
  (State.finish_stage_ok s (State.checkedInput_of_le inputFits) _).trans (State.finish_stage_ok s verified _)

end

/-- Settles O59: the stage that raises, or the parts of the payload. -/
theorem wifdecReadsTheKey : Obligations.WifdecReadsTheKey := by
  intro rd s inputFits
  refine ⟨fun outside => ?_, fun raw decodes short => ?_, fun version key ck decodes length => ?_⟩
  · exact ⟨_, exec_wifdec_of_unverified inputFits (b58checkDecode_of_not_mem outside),
      s.failedWith_abort .invalidAlphabetCharacter⟩
  · exact ⟨_, exec_wifdec_of_unverified inputFits (b58checkDecode_of_short decodes short),
      s.failedWith_abort .invalidKeyEncoding⟩
  have checked := b58checkDecode_of_append (payload := version :: key) (least := 5) decodes length
    (by rw [List.length_cons]; omega)
  refine ⟨fun wrong => ?_, fun right => ?_⟩
  · exact ⟨_, exec_wifdec_of_unverified inputFits (checked.trans (if_pos wrong)), s.failedWith_abort .invalidChecksum⟩
  rw [exec_wifdec_of_verified inputFits (checked.trans (if_neg (not_not.mpr right)))]
  refine ⟨fun whole => ?_, ?_, fun notWhole unmarked => ?_⟩
  · have stripped := stripMarker_of_unmarked (key := key) (.inl (by omega))
    exact State.finish_stage_ok s ((wifParts_of_strip version stripped).trans (if_neg (not_not.mpr whole))) _
  · rintro stem rfl whole
    have stripped := stripMarker_append true whole
    exact State.finish_stage_ok s ((wifParts_of_strip version stripped).trans (if_neg (not_not.mpr whole))) _
  · have stripped := stripMarker_of_unmarked unmarked
    exact ⟨_, State.finish_stage_error s ((wifParts_of_strip version stripped).trans (if_pos notWhole)) _,
      s.failedWith_abort .invalidKeyEncoding⟩

end Sys2Proof.Machine
end

section
/-! The commands that need a running message, on an accumulator that holds none (R235). -/

namespace Sys2Proof.Machine

theorem State.activeAccumulator_of_not_active {s : State} (inactive : s.ha.st ≠ .active) :
    s.activeAccumulator = .error .hashSequence :=
  if_neg inactive

/-- Settles O47: the test of the accumulator is the first stage of both commands, so it raises before HA.UPDATE reads
`ILEN` (R237). -/
theorem hashSequenceErrors : Obligations.HashSequenceErrors := by
  intro s inactive
  have raises : s.activeAccumulator = .error .hashSequence := State.activeAccumulator_of_not_active inactive
  have failed : FailedWith s (s.abort .hashSequence) 10 := s.failedWith_abort .hashSequence
  exact ⟨⟨_, State.finish_stage_error s raises _, failed⟩, ⟨_, State.finish_stage_error s raises _, failed⟩⟩

end Sys2Proof.Machine
end
